-- ==== Sys2Proof/Word.lean ====
section
/-! DEFINITION. The word types of the machine (00_scope.md R5, R8; 30_encoding.md R71).
All values are unsigned (R8); nothing in this machine is sign-extended (R73). -/

namespace Sys2Proof

/-- 8 bits: a general register, a timer, a memory cell, the immediate `kk` (R5). -/
abbrev Byte := BitVec 8

/-- 16 bits: `pc`, `I`, a stack entry, an opcode (R5). -/
abbrev Word := BitVec 16

/-- 12 bits: the address field `nnn` (R71). -/
abbrev Addr := BitVec 12

/-- The index of a general register, 0..15: any 4-bit field names a register (R21). -/
abbrev RegIx := Fin 16

/-- A key number, 0..15 (R28). -/
abbrev KeyIx := Fin 16

/-- The row count `n` of `DRW`, 0..15 (R71, R73). -/
abbrev RowCount := Fin 16

end Sys2Proof
end

