-- ==== Sys2Proof/Syntax.lean ====
section
/-! DEFINITION. The 35 instructions (30_encoding.md R74), one constructor per row of
spec/opcode_table.json, with the operand fields of R71. -/

namespace Sys2Proof

inductive Instr where
  /-- `00E0` -/
  | cls
  /-- `00EE` -/
  | ret
  /-- `0nnn` -/
  | sys (nnn : Addr)
  /-- `1nnn` -/
  | jp (nnn : Addr)
  /-- `2nnn` -/
  | call (nnn : Addr)
  /-- `3xkk` -/
  | seRegByte (x : RegIx) (kk : Byte)
  /-- `4xkk` -/
  | sneRegByte (x : RegIx) (kk : Byte)
  /-- `5xy0` -/
  | seRegReg (x y : RegIx)
  /-- `6xkk` -/
  | ldRegByte (x : RegIx) (kk : Byte)
  /-- `7xkk` -/
  | addRegByte (x : RegIx) (kk : Byte)
  /-- `8xy0` -/
  | ldRegReg (x y : RegIx)
  /-- `8xy1` -/
  | or (x y : RegIx)
  /-- `8xy2` -/
  | and (x y : RegIx)
  /-- `8xy3` -/
  | xor (x y : RegIx)
  /-- `8xy4` -/
  | add (x y : RegIx)
  /-- `8xy5` -/
  | sub (x y : RegIx)
  /-- `8xy6` -/
  | shr (x y : RegIx)
  /-- `8xy7` -/
  | subn (x y : RegIx)
  /-- `8xyE` -/
  | shl (x y : RegIx)
  /-- `9xy0` -/
  | sneRegReg (x y : RegIx)
  /-- `Annn` -/
  | ldIAddr (nnn : Addr)
  /-- `Bnnn` -/
  | jpReg0 (nnn : Addr)
  /-- `Cxkk` -/
  | rnd (x : RegIx) (kk : Byte)
  /-- `Dxyn` -/
  | drw (x y : RegIx) (n : RowCount)
  /-- `Ex9E` -/
  | skp (x : RegIx)
  /-- `ExA1` -/
  | sknp (x : RegIx)
  /-- `Fx07` -/
  | ldRegDT (x : RegIx)
  /-- `Fx0A` -/
  | ldRegK (x : RegIx)
  /-- `Fx15` -/
  | ldDT (x : RegIx)
  /-- `Fx18` -/
  | ldST (x : RegIx)
  /-- `Fx1E` -/
  | addIReg (x : RegIx)
  /-- `Fx29` -/
  | ldFReg (x : RegIx)
  /-- `Fx33` -/
  | ldBReg (x : RegIx)
  /-- `Fx55` -/
  | ldIReg (x : RegIx)
  /-- `Fx65` -/
  | ldRegI (x : RegIx)
  deriving DecidableEq, Repr

/-- The variant name of R74, as spec/opcode_table.json spells it. -/
def Instr.mnemonic : Instr → String
  | .cls => "CLS"
  | .ret => "RET"
  | .sys _ => "SYS"
  | .jp _ => "JP"
  | .call _ => "CALL"
  | .seRegByte _ _ => "SE_reg_byte"
  | .sneRegByte _ _ => "SNE_reg_byte"
  | .seRegReg _ _ => "SE_reg_reg"
  | .ldRegByte _ _ => "LD_reg_byte"
  | .addRegByte _ _ => "ADD_reg_byte"
  | .ldRegReg _ _ => "LD_reg_reg"
  | .or _ _ => "OR"
  | .and _ _ => "AND"
  | .xor _ _ => "XOR"
  | .add _ _ => "ADD"
  | .sub _ _ => "SUB"
  | .shr _ _ => "SHR"
  | .subn _ _ => "SUBN"
  | .shl _ _ => "SHL"
  | .sneRegReg _ _ => "SNE_reg_reg"
  | .ldIAddr _ => "LD_I_addr"
  | .jpReg0 _ => "JP_reg0"
  | .rnd _ _ => "RND"
  | .drw _ _ _ => "DRW"
  | .skp _ => "SKP"
  | .sknp _ => "SKNP"
  | .ldRegDT _ => "LD_reg_DT"
  | .ldRegK _ => "LD_reg_K"
  | .ldDT _ => "LD_DT"
  | .ldST _ => "LD_ST"
  | .addIReg _ => "ADD_I_reg"
  | .ldFReg _ => "LD_F_reg"
  | .ldBReg _ => "LD_B_reg"
  | .ldIReg _ => "LD_I_reg"
  | .ldRegI _ => "LD_reg_I"

end Sys2Proof
end

