-- ==== Sys2Proof/WellFormed.lean ====
section
/-! DEFINITION. Which terms of `Instr` are instructions (30_encoding.md R77, R79). -/

namespace Sys2Proof

/-- The one check the syntax does not make by its types: 0x00E0 and 0x00EE are `CLS` and `RET`, so no
`SYS` has those addresses (R75, R77). Every other value of every operand field is legal (R79). -/
def Instr.wf : Instr → Bool
  | .sys nnn => nnn != 0x0E0#12 && nnn != 0x0EE#12
  | .cls | .ret => true
  | .jp _ | .call _ | .ldIAddr _ | .jpReg0 _ => true
  | .seRegByte _ _ | .sneRegByte _ _ | .ldRegByte _ _ | .addRegByte _ _ | .rnd _ _ => true
  | .seRegReg _ _ | .sneRegReg _ _ | .ldRegReg _ _ | .or _ _ | .and _ _ | .xor _ _ => true
  | .add _ _ | .sub _ _ | .shr _ _ | .subn _ _ | .shl _ _ => true
  | .drw _ _ _ => true
  | .skp _ | .sknp _ | .ldRegDT _ | .ldRegK _ | .ldDT _ | .ldST _ => true
  | .addIReg _ | .ldFReg _ | .ldBReg _ | .ldIReg _ | .ldRegI _ => true

end Sys2Proof
end

