-- ==== Sys2Proof/Decode.lean ====
section
/-! DEFINITION. The opcode decoder (30_encoding.md R70 to R79), the encoder (R81) and the opcode map
as a table (R74). -/

namespace Sys2Proof

/-! ## Bytes and fields -/

/-- `hi ‖ lo`: an opcode is stored most significant byte first (R53). -/
def wordOfBytes (hi lo : Byte) : Word := hi ++ lo

/-- The byte at the lower address of a stored opcode (R53). -/
def highByte (w : Word) : Byte := w.extractLsb' 8 8

/-- The byte at the higher address of a stored opcode (R53). -/
def lowByte (w : Word) : Byte := w.extractLsb' 0 8

/-- `op[lo+3:lo]` (R8). -/
def nibble (w : Word) (lo : Nat) : BitVec 4 := w.extractLsb' lo 4

/-- `fam = op[15:12]` (R71). -/
def fieldFam (w : Word) : BitVec 4 := nibble w 12

/-- `x = op[11:8]` (R71). -/
def fieldX (w : Word) : RegIx := (nibble w 8).toFin

/-- `y = op[7:4]` (R71). -/
def fieldY (w : Word) : RegIx := (nibble w 4).toFin

/-- `n = op[3:0]` as the row count of `DRW` (R71). -/
def fieldN (w : Word) : RowCount := (nibble w 0).toFin

/-- `kk = op[7:0]` (R71). -/
def fieldKK (w : Word) : Byte := lowByte w

/-- `nnn = op[11:0]` (R71). -/
def fieldNNN (w : Word) : Addr := w.extractLsb' 0 12

/-! ## The decoder -/

/-- Family 8 by its sub-opcode `op[3:0]` (R75). -/
def decodeArith (w : Word) : Option Instr :=
  match nibble w 0 with
  | 0x0#4 => some (.ldRegReg (fieldX w) (fieldY w))
  | 0x1#4 => some (.or (fieldX w) (fieldY w))
  | 0x2#4 => some (.and (fieldX w) (fieldY w))
  | 0x3#4 => some (.xor (fieldX w) (fieldY w))
  | 0x4#4 => some (.add (fieldX w) (fieldY w))
  | 0x5#4 => some (.sub (fieldX w) (fieldY w))
  | 0x6#4 => some (.shr (fieldX w) (fieldY w))
  | 0x7#4 => some (.subn (fieldX w) (fieldY w))
  | 0xE#4 => some (.shl (fieldX w) (fieldY w))
  | _ => none

/-- Family E by its sub-opcode `op[7:0]` (R75). -/
def decodeKey (w : Word) : Option Instr :=
  match lowByte w with
  | 0x9E#8 => some (.skp (fieldX w))
  | 0xA1#8 => some (.sknp (fieldX w))
  | _ => none

/-- Family F by its sub-opcode `op[7:0]` (R75). -/
def decodeMisc (w : Word) : Option Instr :=
  match lowByte w with
  | 0x07#8 => some (.ldRegDT (fieldX w))
  | 0x0A#8 => some (.ldRegK (fieldX w))
  | 0x15#8 => some (.ldDT (fieldX w))
  | 0x18#8 => some (.ldST (fieldX w))
  | 0x1E#8 => some (.addIReg (fieldX w))
  | 0x29#8 => some (.ldFReg (fieldX w))
  | 0x33#8 => some (.ldBReg (fieldX w))
  | 0x55#8 => some (.ldIReg (fieldX w))
  | 0x65#8 => some (.ldRegI (fieldX w))
  | _ => none

/-- `decode` of R75, total on all 65536 words; `none` is the spec's `Unknown` (R78). -/
def decode (w : Word) : Option Instr :=
  if w = 0x00E0#16 then some .cls
  else if w = 0x00EE#16 then some .ret
  else match fieldFam w with
    | 0x0#4 => some (.sys (fieldNNN w))
    | 0x1#4 => some (.jp (fieldNNN w))
    | 0x2#4 => some (.call (fieldNNN w))
    | 0x3#4 => some (.seRegByte (fieldX w) (fieldKK w))
    | 0x4#4 => some (.sneRegByte (fieldX w) (fieldKK w))
    | 0x5#4 => if nibble w 0 = 0x0#4 then some (.seRegReg (fieldX w) (fieldY w)) else none
    | 0x6#4 => some (.ldRegByte (fieldX w) (fieldKK w))
    | 0x7#4 => some (.addRegByte (fieldX w) (fieldKK w))
    | 0x8#4 => decodeArith w
    | 0x9#4 => if nibble w 0 = 0x0#4 then some (.sneRegReg (fieldX w) (fieldY w)) else none
    | 0xA#4 => some (.ldIAddr (fieldNNN w))
    | 0xB#4 => some (.jpReg0 (fieldNNN w))
    | 0xC#4 => some (.rnd (fieldX w) (fieldKK w))
    | 0xD#4 => some (.drw (fieldX w) (fieldY w) (fieldN w))
    | 0xE#4 => decodeKey w
    | 0xF#4 => decodeMisc w
    | _ => none

/-- Why a sequence of bytes holds no instruction. -/
inductive DecodeReject where
  /-- Fewer than the two bytes of an instruction (R70). -/
  | truncated
  /-- The word is `Unknown` (R78). -/
  | unknown (op : Word)
  deriving DecidableEq, Repr

/-- The instruction at the head of a sequence of bytes, with the bytes after it (R53, R70). -/
def decodeBytes : List Byte → Except DecodeReject (Instr × List Byte)
  | hi :: lo :: rest =>
    match decode (wordOfBytes hi lo) with
    | some i => .ok (i, rest)
    | none => .error (.unknown (wordOfBytes hi lo))
  | [_] => .error .truncated
  | [] => .error .truncated

/-! ## The encoder -/

/-- A register number or row count as the 4 bits of its field. -/
def nibbleBits (r : Fin 16) : BitVec 4 := BitVec.ofFin r

/-- Format `NNN` (R72). -/
def formatNNN (fam : BitVec 4) (nnn : Addr) : Word := fam ++ nnn

/-- Formats `XKK` and `X` (R72); in `X` the low byte is the sub-opcode. -/
def formatXKK (fam : BitVec 4) (x : RegIx) (kk : Byte) : Word := fam ++ nibbleBits x ++ kk

/-- Formats `XYN` and `XY` (R72); in `XY` the low nibble is the sub-opcode. -/
def formatXYN (fam : BitVec 4) (x y : RegIx) (n : BitVec 4) : Word :=
  fam ++ nibbleBits x ++ nibbleBits y ++ n

/-- The word of an instruction (R81). -/
def encode : Instr → Word
  | .cls => 0x00E0#16
  | .ret => 0x00EE#16
  | .sys nnn => formatNNN 0x0#4 nnn
  | .jp nnn => formatNNN 0x1#4 nnn
  | .call nnn => formatNNN 0x2#4 nnn
  | .seRegByte x kk => formatXKK 0x3#4 x kk
  | .sneRegByte x kk => formatXKK 0x4#4 x kk
  | .seRegReg x y => formatXYN 0x5#4 x y 0x0#4
  | .ldRegByte x kk => formatXKK 0x6#4 x kk
  | .addRegByte x kk => formatXKK 0x7#4 x kk
  | .ldRegReg x y => formatXYN 0x8#4 x y 0x0#4
  | .or x y => formatXYN 0x8#4 x y 0x1#4
  | .and x y => formatXYN 0x8#4 x y 0x2#4
  | .xor x y => formatXYN 0x8#4 x y 0x3#4
  | .add x y => formatXYN 0x8#4 x y 0x4#4
  | .sub x y => formatXYN 0x8#4 x y 0x5#4
  | .shr x y => formatXYN 0x8#4 x y 0x6#4
  | .subn x y => formatXYN 0x8#4 x y 0x7#4
  | .shl x y => formatXYN 0x8#4 x y 0xE#4
  | .sneRegReg x y => formatXYN 0x9#4 x y 0x0#4
  | .ldIAddr nnn => formatNNN 0xA#4 nnn
  | .jpReg0 nnn => formatNNN 0xB#4 nnn
  | .rnd x kk => formatXKK 0xC#4 x kk
  | .drw x y n => formatXYN 0xD#4 x y (nibbleBits n)
  | .skp x => formatXKK 0xE#4 x 0x9E#8
  | .sknp x => formatXKK 0xE#4 x 0xA1#8
  | .ldRegDT x => formatXKK 0xF#4 x 0x07#8
  | .ldRegK x => formatXKK 0xF#4 x 0x0A#8
  | .ldDT x => formatXKK 0xF#4 x 0x15#8
  | .ldST x => formatXKK 0xF#4 x 0x18#8
  | .addIReg x => formatXKK 0xF#4 x 0x1E#8
  | .ldFReg x => formatXKK 0xF#4 x 0x29#8
  | .ldBReg x => formatXKK 0xF#4 x 0x33#8
  | .ldIReg x => formatXKK 0xF#4 x 0x55#8
  | .ldRegI x => formatXKK 0xF#4 x 0x65#8

/-- The two bytes of an instruction in the order they are stored (R53). -/
def encodeBytes (i : Instr) : List Byte := [highByte (encode i), lowByte (encode i)]

/-! ## The opcode map -/

/-- One row of R74: the words `op` with `op & mask = value` are the variant `mnemonic`. -/
structure OpcodeRow where
  mnemonic : String
  value : Word
  mask : Word
  deriving DecidableEq, Repr

/-- R74, rows 1 to 20, in the precedence order of R75. -/
def opcodeTableLow : List OpcodeRow :=
  [⟨"CLS", 0x00E0#16, 0xFFFF#16⟩,
   ⟨"RET", 0x00EE#16, 0xFFFF#16⟩,
   ⟨"SYS", 0x0000#16, 0xF000#16⟩,
   ⟨"JP", 0x1000#16, 0xF000#16⟩,
   ⟨"CALL", 0x2000#16, 0xF000#16⟩,
   ⟨"SE_reg_byte", 0x3000#16, 0xF000#16⟩,
   ⟨"SNE_reg_byte", 0x4000#16, 0xF000#16⟩,
   ⟨"SE_reg_reg", 0x5000#16, 0xF00F#16⟩,
   ⟨"LD_reg_byte", 0x6000#16, 0xF000#16⟩,
   ⟨"ADD_reg_byte", 0x7000#16, 0xF000#16⟩,
   ⟨"LD_reg_reg", 0x8000#16, 0xF00F#16⟩,
   ⟨"OR", 0x8001#16, 0xF00F#16⟩,
   ⟨"AND", 0x8002#16, 0xF00F#16⟩,
   ⟨"XOR", 0x8003#16, 0xF00F#16⟩,
   ⟨"ADD", 0x8004#16, 0xF00F#16⟩,
   ⟨"SUB", 0x8005#16, 0xF00F#16⟩,
   ⟨"SHR", 0x8006#16, 0xF00F#16⟩,
   ⟨"SUBN", 0x8007#16, 0xF00F#16⟩,
   ⟨"SHL", 0x800E#16, 0xF00F#16⟩,
   ⟨"SNE_reg_reg", 0x9000#16, 0xF00F#16⟩]

/-- R74, rows 21 to 35. -/
def opcodeTableHigh : List OpcodeRow :=
  [⟨"LD_I_addr", 0xA000#16, 0xF000#16⟩,
   ⟨"JP_reg0", 0xB000#16, 0xF000#16⟩,
   ⟨"RND", 0xC000#16, 0xF000#16⟩,
   ⟨"DRW", 0xD000#16, 0xF000#16⟩,
   ⟨"SKP", 0xE09E#16, 0xF0FF#16⟩,
   ⟨"SKNP", 0xE0A1#16, 0xF0FF#16⟩,
   ⟨"LD_reg_DT", 0xF007#16, 0xF0FF#16⟩,
   ⟨"LD_reg_K", 0xF00A#16, 0xF0FF#16⟩,
   ⟨"LD_DT", 0xF015#16, 0xF0FF#16⟩,
   ⟨"LD_ST", 0xF018#16, 0xF0FF#16⟩,
   ⟨"ADD_I_reg", 0xF01E#16, 0xF0FF#16⟩,
   ⟨"LD_F_reg", 0xF029#16, 0xF0FF#16⟩,
   ⟨"LD_B_reg", 0xF033#16, 0xF0FF#16⟩,
   ⟨"LD_I_reg", 0xF055#16, 0xF0FF#16⟩,
   ⟨"LD_reg_I", 0xF065#16, 0xF0FF#16⟩]

/-- The opcode map R74, in the precedence order of R75. -/
def opcodeTable : List OpcodeRow := opcodeTableLow ++ opcodeTableHigh

/-- Whether a word belongs to a row: `(op & mask) = match` (R74). -/
def OpcodeRow.covers (row : OpcodeRow) (w : Word) : Bool := w &&& row.mask == row.value

/-! ## The host's way in -/

/-- The opcode whose low `nbits` bits are those of `w`, the rest 0. -/
def tableWord (nbits w : Nat) : Word := BitVec.ofNat 16 (w % 2 ^ nbits)

/-- The instruction the decoder reads from a word numbered as spec/opcode_table.json numbers it: one
word, stored most significant byte first (R53). -/
def decodeTableWord (nbits w : Nat) : Option Instr :=
  match decodeBytes [highByte (tableWord nbits w), lowByte (tableWord nbits w)] with
  | .ok (i, _) => some i
  | .error _ => none

end Sys2Proof
end

