-- ==== Sys2Proof/Config.lean ====
section
/-! DEFINITION. The open parameters of the hardware (00_scope.md R6) and the free values. -/

namespace Sys2Proof

/-- The configuration record of R6: six Booleans, fixed before the first step and constant for a run.
None has a default. -/
structure Config where
  /-- `SHIFT_USES_VY`: `SHR`/`SHL` shift V[y] into V[x] (true) or V[x] itself (false); R129, R131. -/
  shiftUsesVY : Bool
  /-- `LOGIC_RESETS_VF`: `OR`/`AND`/`XOR` zero VF after writing V[x]; R124 to R126. -/
  logicResetsVF : Bool
  /-- `LOADSTORE_INCREMENTS_I`: `LD_I_reg`/`LD_reg_I` add x + 1 to `I` afterward; R145, R146. -/
  loadstoreIncrementsI : Bool
  /-- `ADD_I_SETS_VF`: `ADD_I_reg` sets VF from the out-of-range test; R142. -/
  addISetsVF : Bool
  /-- `SYS_IS_NOP`: a `SYS` word is a no-op (true) or a fatal `DecodeError` (false); R110. -/
  sysIsNop : Bool
  /-- `KEY_WAIT_ON_RELEASE`: `LD_reg_K` completes on the key's release (true) or on its press (false);
  R186. -/
  keyWaitOnRelease : Bool
  deriving DecidableEq, Repr, Inhabited

/-- `CFG0` of R6: every field false. The spec uses it to state its test vectors; it is no default. -/
def Config.cfg0 : Config := ⟨false, false, false, false, false, false⟩

/-- FREE VALUE (log 2). The configuration of the machine at reset. R6 gives no default and forbids
picking one, so this constant has no body: nothing can be proved of it. -/
opaque Config.chosen : Config

/-- FREE VALUE (log 5). The random byte that the n-th `RND` takes when the environment has listed no
draw (R133: any value, under no law). -/
opaque Config.randomByte : Nat → Byte

end Sys2Proof
end

