-- ==== Sys2Proof/Machine/Profile.lean ====
section
/-! DEFINITION. The configuration the machine has at reset (00_scope.md R6; log 2). -/

namespace Sys2Proof.Machine

/-- The configuration of `State.reset`. R6 gives none, so it is the free value `Config.chosen`
(log 2); a run under a known configuration starts from a state whose `config` field is set to it. -/
def resetConfig : Config := Config.chosen

end Sys2Proof.Machine
end

