-- ==== Sys2Proof/Machine/State.lean ====
section
/-! DEFINITION. The state of the machine (10_state.md R20 to R38) and its reset value (R35). -/

namespace Sys2Proof.Machine

/-- The 4096 bytes of memory (R30, R50): the cells that differ from the reset contents
(`resetByte` of Machine/Ops.lean), addresses strictly rising (log 8). -/
abbrev Memory := List Host.Cell

/-- The framebuffer `fb[row][col]`, 32 rows of 64 pixels, true = on (R29). -/
abbrev Framebuffer := Vector (Vector Bool 64) 32

/-- The fault records of R170. They are the machine's exceptional events. A `Step` that raises one takes
it as a NEXT state in which it is latched (R176), so all but `loadError` stand in the field `fault` and
are never the outcome of a step (log 1). -/
inductive Fault where
  /-- Code 1. Raised by a fetched `Unknown` word and by `SYS` unless `SYS_IS_NOP`; latched. Safe: the spec
  gives the record and the state it leaves (R171, R176). -/
  | decodeError (pc op : Word)
  /-- Code 2. Raised by `CALL` with `sp = 16`; latched. Safe: as the spec says (R172). -/
  | stackOverflow (pc op : Word)
  /-- Code 3. Raised by `RET` with `sp = 0`; latched. Safe: as the spec says (R173). -/
  | stackUnderflow (pc op : Word)
  /-- Code 4. Raised by the Program loader's `Reset` with an image over 3584 bytes. There is no machine
  after it (R174, R201), so it is the one fault a step ANSWERS. Safe: the run ends (log 6). -/
  | loadError (len : Nat)
  /-- Code 5. Raised by `JP`, `CALL`, `JP_reg0` with an odd target, and by a fetch at an odd `pc` (then
  `op` is absent); latched. Safe: as the spec says (R119, R56). -/
  | misalignedTarget (pc : Word) (op : Option Word) (target : Word)
  /-- Code 6. Raised by a fetch with `pc > 0xFFE`; latched. Safe: as the spec says (R56). -/
  | fetchOutOfRange (pc : Word)
  /-- Code 7. Raised by `DRW`, `LD_B_reg`, `LD_I_reg`, `LD_reg_I` addressing a byte above 0xFFF; latched.
  Safe: as the spec says (R55, R140). -/
  | memOutOfRange (pc op : Word) (addr : Nat)
  deriving DecidableEq, Repr

/-- Why a step has no meaning. -/
inductive Refusal where
  /-- Raised by an arm of `exec` whose instruction has no meaning yet; no arm is in that case. Safe: the
  run ends. -/
  | notModelled (mnemonic : String)
  deriving DecidableEq, Repr

/-- The status a `Step` returns (R10). -/
inductive Status where
  /-- A full fetch-decode-execute cycle finished. -/
  | completed
  /-- The step blocked on `LD_reg_K`; `pc` did not move. -/
  | needsKey
  /-- The step raised `f`, or found `f` latched. -/
  | fault (f : Fault)
  deriving DecidableEq, Repr

/-- The key-wait latch of `LD_reg_K` (R31). -/
inductive KeyWait where
  | idle
  | awaitDown
  | awaitUp (k : KeyIx)
  | done (k : KeyIx)
  deriving DecidableEq, Repr

/-- An action of one of the agents (R7). The read-only outputs are functions of the state, not actions. -/
inductive Event where
  /-- The driver's `Step` (R90). -/
  | step
  /-- The Clock's `Tick(elapsed_micros)` (R180). -/
  | tick (elapsedMicros : Nat)
  /-- The Input source's `SetKey(k, pressed)` (R184). -/
  | setKey (k : KeyIx) (pressed : Bool)
  /-- The Program loader's `Reset(image)` (R200). -/
  | reset (image : List Byte)
  deriving DecidableEq, Repr

/-- The aggregate of R20, the configuration (R6), and the model's own fields for the environment. -/
structure State where
  /-- `V[0..15]` (R21); VF is `V[15]` (R22). -/
  V : Vector Byte 16
  /-- The index register (R23): all 16 bits are kept. -/
  I : Word
  /-- The program counter (R24). -/
  pc : Word
  /-- The return stack (R26). -/
  stack : Vector Word 16
  /-- The number of stack entries in use, 0..16 (R26). -/
  sp : Fin 17
  /-- The delay timer (R27). -/
  DT : Byte
  /-- The sound timer (R27). -/
  ST : Byte
  /-- `keypad[k]`, true = pressed (R28). -/
  keypad : Vector Bool 16
  /-- The framebuffer (R29). -/
  fb : Framebuffer
  /-- The memory (R30). -/
  mem : Memory
  /-- The key-wait latch (R31). -/
  keyWait : KeyWait
  /-- The fault latch (R32). -/
  fault : Option Fault
  /-- The open parameters (R6, R202): no action changes them (log 2). -/
  config : Config
  /-- MODEL'S OWN (log 4). The last status a `Step` returned (R7, R10). -/
  status : Option Status
  /-- MODEL'S OWN (log 3). The agents' actions still to come, next first; the driver acts when it is
  empty. -/
  schedule : List Event
  /-- MODEL'S OWN (log 5). The random bytes supplied from outside and not yet taken by an `RND` (R133). -/
  draws : List Byte
  /-- MODEL'S OWN (log 5). How many random bytes `RND` has taken. -/
  drawCount : Nat
  deriving DecidableEq, Repr

/-- The machine right after `Reset(<empty>)` (R35, R200): a program's image comes with a `Reset` action
or by `withFetchWord` (log 7). `config`, `status`, `schedule`, `draws` and `drawCount` are not the
spec's state (log 2, 3, 4, 5). -/
def State.reset : State where
  V := Vector.replicate 16 0x00#8
  I := 0x0000#16
  pc := 0x0200#16
  stack := Vector.replicate 16 0x0000#16
  sp := 0
  DT := 0x00#8
  ST := 0x00#8
  keypad := Vector.replicate 16 false
  fb := Vector.replicate 32 (Vector.replicate 64 false)
  mem := []
  keyWait := .idle
  fault := none
  config := resetConfig
  status := none
  schedule := []
  draws := []
  drawCount := 0

end Sys2Proof.Machine
end

