-- ==== Sys2Proof/Machine/Ops.lean ====
section
/-! DEFINITION. The named operations over memory, registers, stack and draws, taking a fault, and the
ways an instruction ends. -/

namespace Sys2Proof.Machine

/-- What a step, and the meaning of an instruction, answers. -/
abbrev Result := Host.Outcome State Fault Refusal

/-! ## Memory -/

/-- The 80 bytes of the standard hex-digit font, 16 glyphs of 5 rows (R52; the bytes are G2). -/
def fontTable : List Byte :=
  [0xF0#8, 0x90#8, 0x90#8, 0x90#8, 0xF0#8,   0x20#8, 0x60#8, 0x20#8, 0x20#8, 0x70#8,
   0xF0#8, 0x10#8, 0xF0#8, 0x80#8, 0xF0#8,   0xF0#8, 0x10#8, 0xF0#8, 0x10#8, 0xF0#8,
   0x90#8, 0x90#8, 0xF0#8, 0x10#8, 0x10#8,   0xF0#8, 0x80#8, 0xF0#8, 0x10#8, 0xF0#8,
   0xF0#8, 0x80#8, 0xF0#8, 0x90#8, 0xF0#8,   0xF0#8, 0x10#8, 0x20#8, 0x40#8, 0x40#8] ++
  [0xF0#8, 0x90#8, 0xF0#8, 0x90#8, 0xF0#8,   0xF0#8, 0x90#8, 0xF0#8, 0x10#8, 0xF0#8,
   0xF0#8, 0x90#8, 0xF0#8, 0x90#8, 0x90#8,   0xE0#8, 0x90#8, 0xE0#8, 0x90#8, 0xE0#8,
   0xF0#8, 0x80#8, 0x80#8, 0x80#8, 0xF0#8,   0xE0#8, 0x90#8, 0x90#8, 0x90#8, 0xE0#8,
   0xF0#8, 0x80#8, 0xF0#8, 0x80#8, 0xF0#8,   0xF0#8, 0x80#8, 0xF0#8, 0x80#8, 0x80#8]

/-- What an unlisted address reads as: the reset contents, the font at 0x000..0x04F and 0x00 elsewhere
(R51, R200). -/
def resetByte (a : Nat) : Byte := fontTable.getD a 0x00#8

/-- `mem[a]`. -/
def Memory.read : Memory → Nat → Byte
  | [], a => resetByte a
  | (k, v) :: rest, a => if k = a then v else Memory.read rest a

/-- The memory without any cell at `a`: `a` reads as at reset. -/
def Memory.erase : Memory → Nat → Memory
  | [], _ => []
  | (k, v) :: rest, a =>
    if k = a then Memory.erase rest a else (k, v) :: Memory.erase rest a

/-- A cell put before the first cell of a higher address. -/
def Memory.insert : Memory → Nat → Byte → Memory
  | [], a, b => [(a, b)]
  | (k, v) :: rest, a, b =>
    if a < k then (a, b) :: (k, v) :: rest else (k, v) :: Memory.insert rest a b

/-- `mem[a] <- b`, keeping the canonical form: no cell holds what its address reads as at reset. -/
def Memory.write (m : Memory) (a : Nat) (b : Byte) : Memory :=
  if b = resetByte a then m.erase a else (m.erase a).insert a b

/-- `mem[a + i] <- bs[i]`, lowest address first (R53, R54). -/
def Memory.writeList : Memory → Nat → List Byte → Memory
  | m, _, [] => m
  | m, a, b :: bs => Memory.writeList (m.write a b) (a + 1) bs

/-- The `n` bytes at `a` upward, lowest address first (R54). -/
def Memory.readList (m : Memory) (a n : Nat) : List Byte :=
  (List.range n).map fun i => m.read (a + i)

/-- The canonical form of a memory: addresses strictly rising and below 4096, and no cell equal to what
its address reads as at reset (log 8). -/
abbrev Memory.wf (m : Memory) : Prop :=
  m.Pairwise (fun c d => c.1 < d.1) ∧ ∀ c ∈ m, c.1 ≤ 0xFFF ∧ c.2 ≠ resetByte c.1

/-! ## Registers -/

/-- `V[r]` (R9, R21). -/
def State.reg (s : State) (r : RegIx) : Byte := s.V[r]

/-- `V[r] <- v` (R9, R21): no register is hard-wired. -/
def State.setReg (s : State) (r : RegIx) (v : Byte) : State :=
  { s with V := s.V.set r.val v r.isLt }

/-- `I <- w`, all 16 bits kept (R23). -/
def State.setI (s : State) (w : Word) : State := { s with I := w }

/-- The bytes `bs` stored from address `a` upward. -/
def State.store (s : State) (a : Nat) (bs : List Byte) : State :=
  { s with mem := s.mem.writeList a bs }

/-! ## The return stack -/

/-- `stack[sp] <- a`, `sp <- sp + 1`; none when `sp = 16` (R26, R113). -/
def State.push (s : State) (a : Word) : Option State :=
  if h : s.sp.val < 16 then
    some { s with stack := s.stack.set s.sp.val a h, sp := ⟨s.sp.val + 1, by omega⟩ }
  else none

/-- `sp <- sp - 1` and the entry `stack[sp]`, which stays in place; none when `sp = 0` (R26, R111). -/
def State.pop (s : State) : Option (Word × State) :=
  if h : 0 < s.sp.val then
    some (s.stack[s.sp.val - 1]'(by omega), { s with sp := ⟨s.sp.val - 1, by omega⟩ })
  else none

/-! ## The draw of `RND` -/

/-- The random byte the next `RND` takes: the first one supplied, else a free value (R133; log 5). -/
def State.draw (s : State) : Byte :=
  match s.draws with
  | b :: _ => b
  | [] => Config.randomByte s.drawCount

/-- The draw is consumed (R97: by `RND` only). -/
def State.dropDraw (s : State) : State :=
  { s with draws := s.draws.tail, drawCount := s.drawCount + 1 }

/-! ## Taking a fault

The whole of fault entry (R176): the record is latched and reported, and every other piece of state
keeps its value. There is no handler, no vector, no saved register and no mode. There is no return from
a fault: a later step reports it again (R177), and only `Reset` clears it. -/

/-- The state fault entry leaves (R176). -/
def State.latch (s : State) (f : Fault) : State :=
  { s with fault := some f, status := some (.fault f) }

/-- `raise F` (R91, R176). The step answers a NEXT state (log 1). -/
def raise (f : Fault) (s : State) : Result := .next (s.latch f)

/-- A step that finds `f` latched returns `Fault(f)` and changes nothing else (R91 step 1, R177). -/
def reportLatched (f : Fault) (s : State) : Result :=
  .next { s with status := some (.fault f) }

/-! ## How an instruction ends -/

/-- `pc <- t` as the last action of an instruction that completes (R91, R94, R96). -/
def State.goTo (s : State) (t : Word) : State :=
  { s with pc := t, status := some .completed }

/-- The default epilogue `pc <- pc + 2` (R92). -/
def epilogue (s : State) : Result := .next (s.goTo (s.pc + 2#16))

/-- The end of a conditional skip: `pc <- pc + 4` if `c`, else `pc <- pc + 2` (R93). -/
def skipIf (c : Bool) (s : State) : Result :=
  .next (s.goTo (if c then s.pc + 4#16 else s.pc + 2#16))

/-- A step that blocks on `LD_reg_K`: `pc` and every register unchanged, status `NeedsKey` (R95, R151). -/
def block (s : State) : Result := .next { s with status := some .needsKey }

/-! ## The checks made before any write (R96) -/

/-- `MisalignedTarget` when the target of a control transfer is odd (R119). -/
def checkTarget (op t : Word) (s : State) (k : Result) : Result :=
  if t.toNat % 2 = 1 then raise (.misalignedTarget s.pc (some op) t) s else k

/-- `MemOutOfRange` when the highest address `I + last` exceeds 0xFFF; the record holds the lowest
address of the access that does (R140). -/
def checkRange (op : Word) (last : Nat) (s : State) (k : Result) : Result :=
  if 0xFFF < s.I.toNat + last then raise (.memOutOfRange s.pc op (max s.I.toNat 0x1000)) s else k

/-! ## Fetch -/

/-- `mem[a] ‖ mem[a+1]` (R53). -/
def State.opcodeAt (s : State) (a : Nat) : Word :=
  wordOfBytes (s.mem.read a) (s.mem.read (a + 1))

/-- `Fetch(pc)` (R56, and R178 for the order of its two faults). -/
def State.fetch (s : State) : Except Fault Word :=
  if s.pc.toNat % 2 = 1 then .error (.misalignedTarget s.pc none s.pc)
  else if 0xFFE < s.pc.toNat then .error (.fetchOutOfRange s.pc)
  else .ok (s.opcodeAt s.pc.toNat)

end Sys2Proof.Machine
end

