-- ==== Sys2Proof/Machine/Agents.lean ====
section
/-! DEFINITION. The actions of the agents other than the driver, and the outputs: the timer tick-down
engine (60_exceptions.md R180 to R183), the keypad (R184 to R187), the framebuffer read port (R188) and
reset with program load (70_reset_and_hazards.md R200, R201). -/

namespace Sys2Proof.Machine

/-! ## The Clock -/

/-- The whole 60 Hz periods in an elapsed time; the remainder is dropped (R180, R181). -/
def wholePeriods (elapsedMicros : Nat) : Nat := elapsedMicros / 16667

/-- A timer lowered by `k`, clamped at 0 (R180). -/
def timerDown (t : Byte) (k : Nat) : Byte :=
  if k ≤ t.toNat then BitVec.ofNat 8 (t.toNat - k) else 0x00#8

/-- `Tick(elapsed_micros)` (R180): defined in every state, and changes nothing but the timers (R182). -/
def State.tick (s : State) (elapsedMicros : Nat) : State :=
  { s with
    DT := timerDown s.DT (wholePeriods elapsedMicros)
    ST := timerDown s.ST (wholePeriods elapsedMicros) }

/-! ## The Input source -/

/-- The key-wait latch after a transition of key `k`, down if `down`, else up (R186). -/
def keyWaitAfter (onRelease : Bool) (k : KeyIx) (down : Bool) : KeyWait → KeyWait
  | .idle => .idle
  | .awaitDown => if down then (if onRelease then .awaitUp k else .done k) else .awaitDown
  | .awaitUp j => if !down && k == j then .done j else .awaitUp j
  | .done j => .done j

/-- `SetKey(k, pressed)` (R184): a change of level is a transition (R185) and moves the latch, judged by
the old level; then the level is set. -/
def State.setKey (s : State) (k : KeyIx) (pressed : Bool) : State :=
  { s with
    keyWait :=
      if pressed != s.keypad[k] then keyWaitAfter s.config.keyWaitOnRelease k pressed s.keyWait
      else s.keyWait
    keypad := s.keypad.set k.val pressed k.isLt }

/-! ## The Program loader -/

/-- The state `Reset(image)` creates, whatever stood before (R200). The configuration is no part of it
(R202), and the environment's own lists go on (log 12). -/
def State.loaded (s : State) (image : List Byte) : State :=
  { State.reset with
    mem := State.reset.mem.writeList 0x200 image
    config := s.config
    schedule := s.schedule
    draws := s.draws
    drawCount := s.drawCount }

/-- `Reset(image)` (R200, R201): an image over 3584 bytes is `LoadError` and leaves no machine (log 6). -/
def load (image : List Byte) (s : State) : Result :=
  if 3584 < image.length then .fault (.loadError image.length) else .next (s.loaded image)

/-! ## The outputs -/

/-- `sound_active`: `ST > 0` (R183). -/
def State.soundActive (s : State) : Bool := decide (0 < s.ST.toNat)

/-- The framebuffer read port (R188). -/
def State.screen (s : State) : Framebuffer := s.fb

end Sys2Proof.Machine
end

