-- ==== Sys2Proof/Machine/Operands.lean ====
section
/-! DEFINITION. The operand forms: low-nibble indices, the shift source, addresses through `I`, jump
targets and sprite coordinates. -/

namespace Sys2Proof.Machine

/-- `a[3:0]`: the font digit of `LD_F_reg` (R143) and the key index of `SKP`/`SKNP` (R156). -/
def lowNibble (a : Byte) : Fin 16 := (a.extractLsb' 0 4).toFin

/-- `zext_16(nnn)` (R73). -/
def addrWord (nnn : Addr) : Word := nnn.setWidth 16

/-- `zext_16(a)` (R9). -/
def byteWord (a : Byte) : Word := a.setWidth 16

/-- The source value `s` of `SHR` and `SHL`: V[y] if `SHIFT_USES_VY`, else V[x] (R129). -/
def shiftSource (x y : RegIx) (s : State) : Byte :=
  if s.config.shiftUsesVY then s.reg y else s.reg x

/-- The target of `JP_reg0`: `nnn + V[0]`, at most 0x10FE, not reduced modulo 4096 (R114). -/
def offsetTarget (nnn : Addr) (s : State) : Word := addrWord nnn + byteWord (s.reg 0)

/-- The sum of `ADD_I_reg` as a natural number, 0 .. 0x100FE (R142). -/
def indexSum (x : RegIx) (s : State) : Nat := s.I.toNat + (s.reg x).toNat

/-- `FONT_BASE + 5 * a[3:0]` (R143). -/
def glyphAddress (a : Byte) : Word := BitVec.ofNat 16 (5 * (lowNibble a).val)

/-- The three BCD digits of a byte: hundreds, tens, units (R144). -/
def bcdDigits (a : Byte) : List Byte :=
  [BitVec.ofNat 8 (a.toNat / 100), BitVec.ofNat 8 (a.toNat / 10 % 10), BitVec.ofNat 8 (a.toNat % 10)]

/-- `V[0] .. V[x]`, V0 first (R145). -/
def State.regsUpTo (s : State) (x : RegIx) : List Byte := s.V.toList.take (x.val + 1)

/-- `V[i] <- MemRead(I + i, 1)` for `i` in 0 .. x (R146). -/
def State.loadRegs (s : State) (x : RegIx) : State :=
  { s with V := Vector.ofFn fun i =>
      if i ≤ x then s.mem.read (s.I.toNat + i.val) else s.V[i] }

/-- `I <- (I + x + 1) mod 2^16` if `LOADSTORE_INCREMENTS_I` (R145, R146). -/
def State.bumpI (s : State) (x : RegIx) : State :=
  if s.config.loadstoreIncrementsI then s.setI (BitVec.ofNat 16 (s.I.toNat + x.val + 1)) else s

/-- `x0 = V[x] mod 64` (R161). -/
def originCol (x : RegIx) (s : State) : Nat := (s.reg x).toNat % 64

/-- `y0 = V[y] mod 32` (R161). -/
def originRow (y : RegIx) (s : State) : Nat := (s.reg y).toNat % 32

end Sys2Proof.Machine
end

