-- ==== Sys2Proof/Machine/Flags.lean ====
section
/-! DEFINITION. The one flag, VF = V[15] (R22), and every value an instruction writes to it. -/

namespace Sys2Proof.Machine

/-- VF is register 15 (R22). -/
def flagReg : RegIx := 15

/-- `VF <- 1 if c else 0`: a flag write stores 0x00 or 0x01 (R22). -/
def State.setFlag (s : State) (c : Bool) : State := s.setReg flagReg (if c then 0x01#8 else 0x00#8)

/-- Carry-out of `a + b` (R120, R127). -/
def carryOut (a b : Byte) : Bool := decide (255 < a.toNat + b.toNat)

/-- "Not borrow" of `a - b`: 1 when `a >= b` (R120, R128, R130). -/
def noBorrow (a b : Byte) : Bool := decide (b.toNat ≤ a.toNat)

/-- The bit `SHR` shifts out (R129). -/
def bitOutRight (a : Byte) : Bool := a.getLsbD 0

/-- The bit `SHL` shifts out (R131). -/
def bitOutLeft (a : Byte) : Bool := a.getLsbD 7

/-- The out-of-range test of `ADD_I_reg` (R142). -/
def indexOutOfRange (sum : Nat) : Bool := decide (0x0FFF < sum)

/-- VF after `OR`, `AND`, `XOR`: 0 if `LOGIC_RESETS_VF`, else untouched (R124). -/
def State.logicFlag (s : State) : State :=
  if s.config.logicResetsVF then s.setFlag false else s

/-- VF after `ADD_I_reg`: the out-of-range test if `ADD_I_SETS_VF`, else untouched (R142). -/
def State.indexFlag (s : State) (sum : Nat) : State :=
  if s.config.addISetsVF then s.setFlag (indexOutOfRange sum) else s

end Sys2Proof.Machine
end

