-- ==== Sys2Proof/Machine/Alu.lean ====
section
/-! DEFINITION. Register load, arithmetic, logic, shift and random instructions (42_alu.md R120 to R133).
Operands are read from the state at the start, then the result is written, then VF, then `pc` (R96). -/

namespace Sys2Proof.Machine

/-- `LD Vx, kk` (R121). -/
def execLdRegByte (x : RegIx) (kk : Byte) (s : State) : Result := epilogue (s.setReg x kk)

/-- `ADD Vx, kk` (R122): the carry is discarded. -/
def execAddRegByte (x : RegIx) (kk : Byte) (s : State) : Result := epilogue (s.setReg x (s.reg x + kk))

/-- `LD Vx, Vy` (R123). -/
def execLdRegReg (x y : RegIx) (s : State) : Result := epilogue (s.setReg x (s.reg y))

/-- `OR Vx, Vy` (R124). -/
def execOr (x y : RegIx) (s : State) : Result := epilogue (s.setReg x (s.reg x ||| s.reg y)).logicFlag

/-- `AND Vx, Vy` (R125). -/
def execAnd (x y : RegIx) (s : State) : Result := epilogue (s.setReg x (s.reg x &&& s.reg y)).logicFlag

/-- `XOR Vx, Vy` (R126). -/
def execXor (x y : RegIx) (s : State) : Result := epilogue (s.setReg x (s.reg x ^^^ s.reg y)).logicFlag

/-- `ADD Vx, Vy` (R127). -/
def execAdd (x y : RegIx) (s : State) : Result :=
  epilogue ((s.setReg x (s.reg x + s.reg y)).setFlag (carryOut (s.reg x) (s.reg y)))

/-- `SUB Vx, Vy` (R128). -/
def execSub (x y : RegIx) (s : State) : Result :=
  epilogue ((s.setReg x (s.reg x - s.reg y)).setFlag (noBorrow (s.reg x) (s.reg y)))

/-- `SHR Vx, Vy` (R129). -/
def execShr (x y : RegIx) (s : State) : Result :=
  epilogue ((s.setReg x (shiftSource x y s >>> 1)).setFlag (bitOutRight (shiftSource x y s)))

/-- `SUBN Vx, Vy` (R130). -/
def execSubn (x y : RegIx) (s : State) : Result :=
  epilogue ((s.setReg x (s.reg y - s.reg x)).setFlag (noBorrow (s.reg y) (s.reg x)))

/-- `SHL Vx, Vy` (R131). -/
def execShl (x y : RegIx) (s : State) : Result :=
  epilogue ((s.setReg x (shiftSource x y s <<< 1)).setFlag (bitOutLeft (shiftSource x y s)))

/-- `RND Vx, kk` (R133): the draw is any byte (log 5). -/
def execRnd (x : RegIx) (kk : Byte) (s : State) : Result :=
  epilogue (s.dropDraw.setReg x (s.draw &&& kk))

end Sys2Proof.Machine
end

