-- ==== Sys2Proof/Machine/Control.lean ====
section
/-! DEFINITION. The control-flow instructions (41_control_flow.md R110 to R119). -/

namespace Sys2Proof.Machine

/-- `SYS nnn` (R110): the address is ignored and no routine runs. Both ends are next states: the default
epilogue, or the latched `DecodeError`. -/
def execSys (nnn : Addr) (s : State) : Result :=
  .next (if s.config.sysIsNop then s.goTo (s.pc + 2#16)
    else s.latch (.decodeError s.pc (encode (.sys nnn))))

/-- `RET` (R111). -/
def execRet (s : State) : Result :=
  match s.pop with
  | some (t, s') => .next (s'.goTo (t + 2#16))
  | none => raise (.stackUnderflow s.pc (encode .ret)) s

/-- `JP nnn` (R112). -/
def execJp (nnn : Addr) (s : State) : Result :=
  checkTarget (encode (.jp nnn)) (addrWord nnn) s (.next (s.goTo (addrWord nnn)))

/-- `CALL nnn` (R113): the target is checked first, and the pushed value is the `CALL`'s own address. -/
def execCall (nnn : Addr) (s : State) : Result :=
  checkTarget (encode (.call nnn)) (addrWord nnn) s
    (match s.push s.pc with
      | some s' => .next (s'.goTo (addrWord nnn))
      | none => raise (.stackOverflow s.pc (encode (.call nnn))) s)

/-- `JP V0, nnn` (R114). -/
def execJpReg0 (nnn : Addr) (s : State) : Result :=
  checkTarget (encode (.jpReg0 nnn)) (offsetTarget nnn s) s (.next (s.goTo (offsetTarget nnn s)))

/-- `SE Vx, kk` (R115). -/
def execSeRegByte (x : RegIx) (kk : Byte) (s : State) : Result := skipIf (s.reg x == kk) s

/-- `SNE Vx, kk` (R116). -/
def execSneRegByte (x : RegIx) (kk : Byte) (s : State) : Result := skipIf (s.reg x != kk) s

/-- `SE Vx, Vy` (R117). -/
def execSeRegReg (x y : RegIx) (s : State) : Result := skipIf (s.reg x == s.reg y) s

/-- `SNE Vx, Vy` (R118). -/
def execSneRegReg (x y : RegIx) (s : State) : Result := skipIf (s.reg x != s.reg y) s

end Sys2Proof.Machine
end

