-- ==== Sys2Proof/Machine/Raster.lean ====
section
/-! DEFINITION. The sprite rasterizer `draw` (45_display.md R162, R163), loop by loop as R162 gives it. -/

namespace Sys2Proof.Machine

/-- `fb[row][col]`; off outside the 32 × 64 grid. -/
def Framebuffer.pixel (fb : Framebuffer) (row col : Nat) : Bool :=
  if h : row < 32 ∧ col < 64 then (fb[row]'h.1)[col]'h.2 else false

/-- The framebuffer with every pixel off (R160). -/
def Framebuffer.clear : Framebuffer := Vector.replicate 32 (Vector.replicate 64 false)

/-- The body of the innermost loop for a set sprite bit: a pixel off the grid is dropped; otherwise it is
toggled, and it collides if it was on (R162). -/
def plot (acc : Framebuffer × Bool) (px py : Nat) : Framebuffer × Bool :=
  if h : py < 32 ∧ px < 64 then
    let old := (acc.1[py]'h.1)[px]'h.2
    (acc.1.set py ((acc.1[py]'h.1).set px (!old) h.2) h.1, acc.2 || old)
  else acc

/-- The columns `c` in the list: bit 7 of a sprite byte is the leftmost column (R162). -/
def drawBits (row : Byte) (x0 py : Nat) : List Nat → Framebuffer × Bool → Framebuffer × Bool
  | [], acc => acc
  | c :: cs, acc =>
    drawBits row x0 py cs (if row.getLsbD (7 - c) then plot acc (x0 + c) py else acc)

/-- The sprite rows from `py` downward, each over the columns 0 .. 7 (R162). -/
def drawRows (x0 : Nat) : Nat → List Byte → Framebuffer × Bool → Framebuffer × Bool
  | _, [], acc => acc
  | py, row :: rows, acc => drawRows x0 (py + 1) rows (drawBits row x0 py [0, 1, 2, 3, 4, 5, 6, 7] acc)

/-- `draw(fb, x0, y0, sprite) -> (fb', collision)` (R162). -/
def draw (fb : Framebuffer) (x0 y0 : Nat) (sprite : List Byte) : Framebuffer × Bool :=
  drawRows x0 y0 sprite (fb, false)

end Sys2Proof.Machine
end

