-- ==== Sys2Proof/Machine/Display.lean ====
section
/-! DEFINITION. The display instructions (45_display.md R160, R161). -/

namespace Sys2Proof.Machine

/-- `CLS` (R160). -/
def execCls (s : State) : Result := epilogue { s with fb := Framebuffer.clear }

/-- The sprite of a `DRW`: the `n` bytes at `I` upward, row 0 first (R161). -/
def spriteAt (n : RowCount) (s : State) : List Byte := s.mem.readList s.I.toNat n.val

/-- The drawing half of `DRW`, after its range check: the coordinates and the sprite are sampled from the
state at the start, VF is cleared, the sprite is drawn, and VF is set if it collided (R161). -/
def drawSprite (x y : RegIx) (n : RowCount) (s : State) : Result :=
  let drawn := draw s.fb (originCol x s) (originRow y s) (spriteAt n s)
  epilogue ({ s.setFlag false with fb := drawn.1 }.setFlag drawn.2)

/-- `DRW Vx, Vy, n` (R161); with `n = 0` no byte is read and nothing can be out of range. -/
def execDrw (x y : RegIx) (n : RowCount) (s : State) : Result :=
  if n.val = 0 then drawSprite x y n s
  else checkRange (encode (.drw x y n)) (n.val - 1) s (drawSprite x y n s)

end Sys2Proof.Machine
end

