-- ==== Sys2Proof/Machine/IndexMemory.lean ====
section
/-! DEFINITION. Index-register and memory instructions (43_index_memory.md R140 to R146). -/

namespace Sys2Proof.Machine

/-- `LD I, nnn` (R141). -/
def execLdIAddr (nnn : Addr) (s : State) : Result := epilogue (s.setI (addrWord nnn))

/-- `ADD I, Vx` (R142): `I` is never masked to 12 bits. -/
def execAddIReg (x : RegIx) (s : State) : Result :=
  epilogue ((s.setI (BitVec.ofNat 16 (indexSum x s))).indexFlag (indexSum x s))

/-- `LD F, Vx` (R143). -/
def execLdFReg (x : RegIx) (s : State) : Result := epilogue (s.setI (glyphAddress (s.reg x)))

/-- `LD B, Vx` (R144). -/
def execLdBReg (x : RegIx) (s : State) : Result :=
  checkRange (encode (.ldBReg x)) 2 s (epilogue (s.store s.I.toNat (bcdDigits (s.reg x))))

/-- `LD [I], Vx`, the register dump (R145). -/
def execLdIReg (x : RegIx) (s : State) : Result :=
  checkRange (encode (.ldIReg x)) x.val s
    (epilogue ((s.store s.I.toNat (s.regsUpTo x)).bumpI x))

/-- `LD Vx, [I]`, the register load (R146). -/
def execLdRegI (x : RegIx) (s : State) : Result :=
  checkRange (encode (.ldRegI x)) x.val s (epilogue ((s.loadRegs x).bumpI x))

end Sys2Proof.Machine
end

