-- ==== Sys2Proof/Machine/TimersKeypad.lean ====
section
/-! DEFINITION. Timer and keypad instructions (44_timers_keypad.md R150 to R156). -/

namespace Sys2Proof.Machine

/-- `LD Vx, DT` (R150). -/
def execLdRegDT (x : RegIx) (s : State) : Result := epilogue (s.setReg x s.DT)

/-- `LD Vx, K` (R151): the one blocking instruction. -/
def execLdRegK (x : RegIx) (s : State) : Result :=
  match s.keyWait with
  | .idle => block { s with keyWait := .awaitDown }
  | .awaitDown => block s
  | .awaitUp _ => block s
  | .done k => epilogue { s.setReg x (BitVec.ofNat 8 k.val) with keyWait := .idle }

/-- `LD DT, Vx` (R152). -/
def execLdDT (x : RegIx) (s : State) : Result := epilogue { s with DT := s.reg x }

/-- `LD ST, Vx` (R153). -/
def execLdST (x : RegIx) (s : State) : Result := epilogue { s with ST := s.reg x }

/-- `SKP Vx` (R154): the level of the key V[x][3:0], and no transition. -/
def execSkp (x : RegIx) (s : State) : Result := skipIf s.keypad[lowNibble (s.reg x)] s

/-- `SKNP Vx` (R155). -/
def execSknp (x : RegIx) (s : State) : Result := skipIf (!s.keypad[lowNibble (s.reg x)]) s

end Sys2Proof.Machine
end

