-- ==== Sys2Proof/Machine/Dispatch.lean ====
section
/-! DEFINITION. The execution engine: one handler per instruction variant (00_scope.md R2; step 5 of R91). -/

namespace Sys2Proof.Machine

/-- The rule of one variant, executed in a state (40_step_cycle.md R91, step 5). -/
def exec (i : Instr) (s : State) : Host.Outcome State Fault Refusal :=
  match i with
  | .cls => Sys2Proof.Machine.execCls s
  | .ret => Sys2Proof.Machine.execRet s
  | .sys nnn => Sys2Proof.Machine.execSys nnn s
  | .jp nnn => Sys2Proof.Machine.execJp nnn s
  | .call nnn => Sys2Proof.Machine.execCall nnn s
  | .seRegByte x kk => Sys2Proof.Machine.execSeRegByte x kk s
  | .sneRegByte x kk => Sys2Proof.Machine.execSneRegByte x kk s
  | .seRegReg x y => Sys2Proof.Machine.execSeRegReg x y s
  | .ldRegByte x kk => Sys2Proof.Machine.execLdRegByte x kk s
  | .addRegByte x kk => Sys2Proof.Machine.execAddRegByte x kk s
  | .ldRegReg x y => Sys2Proof.Machine.execLdRegReg x y s
  | .or x y => Sys2Proof.Machine.execOr x y s
  | .and x y => Sys2Proof.Machine.execAnd x y s
  | .xor x y => Sys2Proof.Machine.execXor x y s
  | .add x y => Sys2Proof.Machine.execAdd x y s
  | .sub x y => Sys2Proof.Machine.execSub x y s
  | .shr x y => Sys2Proof.Machine.execShr x y s
  | .subn x y => Sys2Proof.Machine.execSubn x y s
  | .shl x y => Sys2Proof.Machine.execShl x y s
  | .sneRegReg x y => Sys2Proof.Machine.execSneRegReg x y s
  | .ldIAddr nnn => Sys2Proof.Machine.execLdIAddr nnn s
  | .jpReg0 nnn => Sys2Proof.Machine.execJpReg0 nnn s
  | .rnd x kk => Sys2Proof.Machine.execRnd x kk s
  | .drw x y n => Sys2Proof.Machine.execDrw x y n s
  | .skp x => Sys2Proof.Machine.execSkp x s
  | .sknp x => Sys2Proof.Machine.execSknp x s
  | .ldRegDT x => Sys2Proof.Machine.execLdRegDT x s
  | .ldRegK x => Sys2Proof.Machine.execLdRegK x s
  | .ldDT x => Sys2Proof.Machine.execLdDT x s
  | .ldST x => Sys2Proof.Machine.execLdST x s
  | .addIReg x => Sys2Proof.Machine.execAddIReg x s
  | .ldFReg x => Sys2Proof.Machine.execLdFReg x s
  | .ldBReg x => Sys2Proof.Machine.execLdBReg x s
  | .ldIReg x => Sys2Proof.Machine.execLdIReg x s
  | .ldRegI x => Sys2Proof.Machine.execLdRegI x s

end Sys2Proof.Machine
end

