-- ==== Sys2Proof/Machine/Cycle.lean ====
section
/-! DEFINITION. The fetch-decode-execute cycle (40_step_cycle.md R91) and the actions of all agents
(00_scope.md R7). -/

namespace Sys2Proof.Machine

/-- The driver's `Step` (R91): latch check, fetch, decode, execute. -/
def driverStep (s : State) : Result :=
  match s.fault with
  | some f => reportLatched f s
  | none =>
    match s.fetch with
    | .error f => raise f s
    | .ok op =>
      match decode op with
      | none => raise (.decodeError s.pc op) s
      | some i => exec i s

/-- One atomic action of one agent (R7). -/
def perform (e : Event) (s : State) : Result :=
  match e with
  | .step => driverStep s
  | .tick elapsedMicros => .next (s.tick elapsedMicros)
  | .setKey k pressed => .next (s.setKey k pressed)
  | .reset image => load image s

/-- Which action comes next: the head of the schedule, and the driver's `Step` when it is empty (log 3). -/
def State.nextEvent (s : State) : Event := s.schedule.headD .step

/-- The state with the next action taken off the schedule. -/
def State.popEvent (s : State) : State := { s with schedule := s.schedule.tail }

/-- Where the next fetch reads: `pc`, or 0x200 when `pc` is no address `Fetch` is defined at (R56). -/
def State.fetchPlace (s : State) : Word :=
  if s.pc.toNat % 2 = 0 ∧ s.pc.toNat ≤ 0xFFE then s.pc else 0x200#16

/-- The state whose next action is the driver's `Step` of the word `op`, placed at the fetch address: no
fault is latched, and a `Step` comes before the other agents' actions if any are listed (log 7). -/
def State.placeWord (s : State) (op : Word) : State :=
  { s with
    pc := s.fetchPlace
    mem := s.mem.writeList s.fetchPlace.toNat [highByte op, lowByte op]
    fault := none
    schedule := if s.schedule = [] then [] else .step :: s.schedule }

end Sys2Proof.Machine
end

