-- ==== Sys2Proof/Machine/Step.lean ====
section
/-! DEFINITION. The step of the machine, and the host's way to place a word. -/

namespace Sys2Proof.Machine

/-- One step of the machine: the next action of the agents (R7, R60; log 3). -/
def step (s : State) : Host.Outcome State Fault Refusal := perform s.nextEvent s.popEvent

/-- `s` with the opcode `w` (its low `nbits` bits, the rest 0) stored where the next fetch reads. -/
def State.withFetchWord (s : State) (nbits w : Nat) : State := s.placeWord (tableWord nbits w)

end Sys2Proof.Machine
end

