-- ==== Sys2Proof/Safety.lean ====
section
/-! DEFINITION. What counts as a safe run, and the terms the statements use: when a step runs an
instruction, what an instruction may write (10_state.md R36), and the invariant of the machine. -/

namespace Sys2Proof

/-- The instructions that end with the default epilogue and nothing else (R92); `LD_reg_K` when it
completes, `SYS` as a no-op. The others are the jumps, `CALL`, `RET` and the six skips (R93, R94). -/
def Instr.hasDefaultEpilogue : Instr → Bool
  | .sys _ | .cls => true
  | .ldRegByte _ _ | .addRegByte _ _ | .ldRegReg _ _ | .or _ _ | .and _ _ | .xor _ _ => true
  | .add _ _ | .sub _ _ | .shr _ _ | .subn _ _ | .shl _ _ | .rnd _ _ | .drw _ _ _ => true
  | .ldIAddr _ | .addIReg _ | .ldFReg _ | .ldBReg _ | .ldIReg _ | .ldRegI _ => true
  | .ldRegDT _ | .ldDT _ | .ldST _ | .ldRegK _ => true
  | .ret | .jp _ | .call _ | .jpReg0 _ => false
  | .seRegByte _ _ | .sneRegByte _ _ | .seRegReg _ _ | .sneRegReg _ _ | .skp _ | .sknp _ => false

end Sys2Proof

namespace Sys2Proof.Machine

/-! ## Runs -/

/-- A safe state: no fault is latched (R32). -/
abbrev State.healthy (s : State) : Prop := s.fault = none

/-- `Fetch(pc)` is defined: `pc` is even and at most 0xFFE (R56). -/
abbrev State.fetchable (s : State) : Prop := s.pc.toNat % 2 = 0 ∧ s.pc.toNat ≤ 0xFFE

/-- The word `Fetch(pc)` returns (R53, R56). -/
def State.fetchedWord (s : State) : Word := s.opcodeAt s.pc.toNat

/-- It is the driver's turn: the next action is a `Step` (R90). -/
abbrev State.driverNext (s : State) : Prop := s.nextEvent = .step

/-- The next `Step` executes the rule of `i` (R91): no fault is latched, and the word at `pc` decodes to
`i`. -/
abbrev State.fetches (s : State) (i : Instr) : Prop :=
  s.healthy ∧ s.fetchable ∧ decode s.fetchedWord = some i

/-! ## Ends of an instruction -/

/-- `i` completes in `s` with the default epilogue (R92), and registers are all it writes: V[r] becomes
`v r`, and every other piece of state is as before. -/
def CompletesWithRegs (i : Instr) (s : State) (v : RegIx → Byte) : Prop :=
  ∃ V' : Vector Byte 16,
    exec i s = .next { s with V := V', pc := s.pc + 2#16, status := some .completed } ∧
      ∀ r : RegIx, V'[r] = v r

/-- `i` raises `f` in `s`: the record is latched and reported, and every other piece of state is as
before (R176). -/
def Latches (i : Instr) (s : State) (f : Fault) : Prop :=
  exec i s = .next { s with fault := some f, status := some (.fault f) }

/-- `i` completes in `s` as a control transfer to `t` that writes nothing else (R94). -/
def JumpsTo (i : Instr) (s : State) (t : Word) : Prop :=
  exec i s = .next { s with pc := t, status := some .completed }

/-! ## Fault records -/

/-- The `pc` a fault record holds (R170). -/
def Fault.pc? : Fault → Option Word
  | .decodeError pc _ => some pc
  | .stackOverflow pc _ => some pc
  | .stackUnderflow pc _ => some pc
  | .loadError _ => none
  | .misalignedTarget pc _ _ => some pc
  | .fetchOutOfRange pc => some pc
  | .memOutOfRange pc _ _ => some pc

/-- The `op` a fault record holds (R170). -/
def Fault.op? : Fault → Option Word
  | .decodeError _ op => some op
  | .stackOverflow _ op => some op
  | .stackUnderflow _ op => some op
  | .loadError _ => none
  | .misalignedTarget _ op _ => op
  | .fetchOutOfRange _ => none
  | .memOutOfRange _ op _ => some op

/-- The code of a fault (R170). -/
def Fault.code : Fault → Nat
  | .decodeError _ _ => 1
  | .stackOverflow _ _ => 2
  | .stackUnderflow _ _ => 3
  | .loadError _ => 4
  | .misalignedTarget _ _ _ => 5
  | .fetchOutOfRange _ => 6
  | .memOutOfRange _ _ _ => 7

/-! ## Write sets (R36) -/

/-- A piece of state that R36 gives a column, with the registers one by one and the draws of `RND`. -/
inductive Component where
  | reg (r : RegIx)
  | index
  | mem
  | stack
  | delayTimer
  | soundTimer
  | keypad
  | keyWait
  | screen
  | draws
  deriving DecidableEq, Repr

/-- The piece of state is the same in both states; memory byte by byte as a read finds it. -/
def Component.Same (c : Component) (s t : State) : Prop :=
  match c with
  | .reg r => t.reg r = s.reg r
  | .index => t.I = s.I
  | .mem => ∀ a, t.mem.read a = s.mem.read a
  | .stack => t.stack = s.stack ∧ t.sp = s.sp
  | .delayTimer => t.DT = s.DT
  | .soundTimer => t.ST = s.ST
  | .keypad => t.keypad = s.keypad
  | .keyWait => t.keyWait = s.keyWait
  | .screen => t.fb = s.fb
  | .draws => t.draws = s.draws ∧ t.drawCount = s.drawCount

/-- The table R36 under a configuration: whether an instruction may write a piece of state. -/
def mayWrite (cfg : Config) (i : Instr) (c : Component) : Bool :=
  match i with
  | .sys _ | .jp _ | .jpReg0 _ => false
  | .seRegByte _ _ | .sneRegByte _ _ | .seRegReg _ _ | .sneRegReg _ _ | .skp _ | .sknp _ => false
  | .cls => c == .screen
  | .ret | .call _ => c == .stack
  | .ldRegByte x _ | .addRegByte x _ | .ldRegReg x _ | .ldRegDT x => c == .reg x
  | .or x _ | .and x _ | .xor x _ => c == .reg x || (cfg.logicResetsVF && c == .reg 15)
  | .add x _ | .sub x _ | .subn x _ | .shr x _ | .shl x _ => c == .reg x || c == .reg 15
  | .ldIAddr _ | .ldFReg _ => c == .index
  | .addIReg _ => c == .index || (cfg.addISetsVF && c == .reg 15)
  | .rnd x _ => c == .reg x || c == .draws
  | .drw _ _ _ => c == .screen || c == .reg 15
  | .ldRegK x => c == .reg x || c == .keyWait
  | .ldDT _ => c == .delayTimer
  | .ldST _ => c == .soundTimer
  | .ldBReg _ => c == .mem
  | .ldIReg _ => c == .mem || (cfg.loadstoreIncrementsI && c == .index)
  | .ldRegI x =>
    (match c with
      | .reg r => decide (r ≤ x)
      | .index => cfg.loadstoreIncrementsI
      | .mem | .stack | .delayTimer | .soundTimer | .keypad | .keyWait | .screen | .draws => false)

/-! ## The sprite of a `DRW` -/

/-- Whether the sprite of `n` rows at `I`, with its origin at row `y0` and column `x0`, has a set bit at a
pixel: bit 7 of a row is its leftmost column (R162). -/
def State.spriteCovers (s : State) (x0 y0 n row col : Nat) : Bool :=
  decide (y0 ≤ row ∧ row < y0 + n ∧ x0 ≤ col ∧ col < x0 + 8) &&
    (s.mem.read (s.I.toNat + (row - y0))).getLsbD (7 - (col - x0))

/-! ## The invariant -/

/-- What holds in every state the machine reaches. -/
structure Inv (s : State) : Prop where
  /-- `pc` is even (R25). -/
  pcEven : s.pc.toNat % 2 = 0
  /-- `pc` is at most 0x10FE (R24). -/
  pcBound : s.pc.toNat ≤ 0x10FE
  /-- Every stack entry is even and the address of a fetched word (R25, R111). -/
  stackEntries : ∀ k : Fin 16, s.stack[k].toNat % 2 = 0 ∧ s.stack[k].toNat ≤ 0xFFE
  /-- The memory has its canonical form (log 8). -/
  memory : s.mem.wf
  /-- `LoadError` is never latched (R174). -/
  latchNotLoad : ∀ n, s.fault ≠ some (.loadError n)
  /-- A fault is latched exactly when it is the last status returned (R176, R177). -/
  latchReported : ∀ f, s.fault = some f ↔ s.status = some (.fault f)
  /-- `key_wait` is not `Idle` only while `pc` points at an `LD_reg_K` word (R151). -/
  waiting : s.keyWait ≠ .idle → ∃ x, s.fetches (.ldRegK x)

end Sys2Proof.Machine
end

