-- ==== Sys2Proof/Certificates/Slice0/Obligations.lean ====
section
/-! DEFINITION. The statements about the machine, each from the rules of spec/ its docstring cites. A
statement speaks of every state and every configuration unless it says otherwise. `D<n>` names a decision
of spec/92_eei_decisions.md and `G<n>` a general-knowledge passage of spec/93_implementation_defined.md
that a statement rests on; `log <n>` names a convention of the model. -/

open Sys2Proof Sys2Proof.Machine

/-! ## Encoding -/

/-- R81 (derived there), over the opcode numbers of D2 and G1: decoding an encoded well-formed instruction
gives it back, with every operand at every value. -/
def Obligations.DecodeOfEncodeIsTheInstruction : Prop :=
  ∀ i : Instr, i.wf = true → decode (encode i) = some i

/-- R81, R75: a word that decodes is the word of its instruction, so no bit of it is dropped; and only
well-formed instructions are decoded. -/
def Obligations.EncodeOfDecodeIsTheWord : Prop :=
  ∀ (w : Word) (i : Instr), decode w = some i → encode i = w ∧ i.wf = true

/-- R74 against R75 (D2): the algorithm gives the variant of the first row of the opcode map that covers
the word, and `Unknown` where no row does. -/
def Obligations.DecodeTakesFirstRowOfOpcodeMap : Prop :=
  ∀ w : Word,
    (decode w).map Instr.mnemonic = (opcodeTable.find? fun row => row.covers w).map OpcodeRow.mnemonic

/-- R78 (derived there): the words that decode to `Unknown`, by family and sub-opcode. -/
def Obligations.UnknownWordsByFamily : Prop :=
  ∀ w : Word,
    decode w = none ↔
      (w.toNat / 4096 = 0x5 ∧ w.toNat % 16 ≠ 0) ∨
      (w.toNat / 4096 = 0x8 ∧ w.toNat % 16 ∈ [0x8, 0x9, 0xA, 0xB, 0xC, 0xD, 0xF]) ∨
      (w.toNat / 4096 = 0x9 ∧ w.toNat % 16 ≠ 0) ∨
      (w.toNat / 4096 = 0xE ∧ w.toNat % 256 ∉ [0x9E, 0xA1]) ∨
      (w.toNat / 4096 = 0xF ∧
        w.toNat % 256 ∉ [0x07, 0x0A, 0x15, 0x18, 0x1E, 0x29, 0x33, 0x55, 0x65])

/-- R74 (D2): some words of each family, written out from the opcode map. -/
def Obligations.SampleWordsDecode : Prop :=
  decode 0x00E0#16 = some .cls ∧ decode 0x00EE#16 = some .ret ∧ decode 0x00E1#16 = some (.sys 0x0E1#12) ∧
  decode 0x1ABC#16 = some (.jp 0xABC#12) ∧ decode 0x5AB0#16 = some (.seRegReg 10 11) ∧
  decode 0x5001#16 = none ∧ decode 0x8AB7#16 = some (.subn 10 11) ∧ decode 0x8ABE#16 = some (.shl 10 11) ∧
  decode 0xD12A#16 = some (.drw 1 2 10) ∧ decode 0xE19E#16 = some (.skp 1) ∧
  decode 0xF10A#16 = some (.ldRegK 1) ∧ decode 0xF165#16 = some (.ldRegI 1) ∧ decode 0xFFFF#16 = none

/-- R71: the fields of an opcode as numbers. -/
def Obligations.OperandFieldsAtFixedBits : Prop :=
  ∀ w : Word,
    (fieldFam w).toNat = w.toNat / 2 ^ 12 ∧ (fieldX w).val = w.toNat / 2 ^ 8 % 2 ^ 4 ∧
    (fieldY w).val = w.toNat / 2 ^ 4 % 2 ^ 4 ∧ (fieldN w).val = w.toNat % 2 ^ 4 ∧
    (fieldKK w).toNat = w.toNat % 2 ^ 8 ∧ (fieldNNN w).toNat = w.toNat % 2 ^ 12

/-! ## The cycle -/

/-- R91 with R53 and R56: when no fault is latched, `pc` is even and at most 0xFFE, and the word
`mem[pc] * 256 + mem[pc+1]` decodes to `i`, the driver's step is the rule of `i`. The schedule of the
agents' actions is the model's (log 3): a step takes the next action off it, and the driver acts when it
is empty. -/
def Obligations.StepRunsTheDecodedInstruction : Prop :=
  ∀ (s : State) (i : Instr),
    s.fault = none → s.pc.toNat % 2 = 0 → s.pc.toNat ≤ 0xFFE →
    decode (BitVec.ofNat 16
      ((s.mem.read s.pc.toNat).toNat * 256 + (s.mem.read (s.pc.toNat + 1)).toNat)) = some i →
    (s.schedule = [] → step s = exec i s) ∧
    ∀ rest, s.schedule = .step :: rest → step s = exec i { s with schedule := rest }

/-- R91 steps 1, 2 and 4 in the order of R178 (D29): a latched fault, an odd `pc` (D9), a `pc` above 0xFFE
(D10), an `Unknown` word; what is latched and what stays is D12. It is the driver's turn when a `Step` is
the next action listed or none is, and the step takes the action off the model's schedule (log 3). -/
def Obligations.StepWithoutInstruction : Prop :=
  ∀ s : State, s.driverNext →
    (∀ f, s.fault = some f → step s = .next { s.popEvent with status := some (.fault f) }) ∧
    (s.fault = none → s.pc.toNat % 2 = 1 →
      step s = .next { s.popEvent with
        fault := some (.misalignedTarget s.pc none s.pc)
        status := some (.fault (.misalignedTarget s.pc none s.pc)) }) ∧
    (s.fault = none → s.pc.toNat % 2 = 0 → 0xFFE < s.pc.toNat →
      step s = .next { s.popEvent with
        fault := some (.fetchOutOfRange s.pc)
        status := some (.fault (.fetchOutOfRange s.pc)) }) ∧
    (s.fault = none → s.fetchable → decode s.fetchedWord = none →
      step s = .next { s.popEvent with
        fault := some (.decodeError s.pc s.fetchedWord)
        status := some (.fault (.decodeError s.pc s.fetchedWord)) })

/-- The model's own (log 7): a word that decodes, once placed, is what the very next step runs, from any
state. -/
def Obligations.PlacedWordIsFetchedNext : Prop :=
  ∀ (s : State) (w : Nat) (i : Instr),
    decode (BitVec.ofNat 16 w) = some i → w < 2 ^ 16 →
    (s.withFetchWord 16 w).driverNext ∧ (s.withFetchWord 16 w).fetches i

/-- R92: every instruction of its list ends, when it completes, with `pc` moved on by 2. -/
def Obligations.DefaultEpilogueAdvancesByTwo : Prop :=
  ∀ (i : Instr) (s t : State), i.hasDefaultEpilogue = true →
    exec i s = .next t → t.status = some .completed → t.pc = s.pc + 2#16

/-- R98 (derived there): a step is total. Every instruction answers a next state in every state, and so
does every step but a `Reset` with an image over 3584 bytes, which is `LoadError` (R201; log 6). -/
def Obligations.EveryStepAnswers : Prop :=
  (∀ (i : Instr) (s : State), ∃ t, exec i s = .next t) ∧
  ∀ s : State, (∃ t, step s = .next t) ∨
    ∃ image, s.nextEvent = .reset image ∧ 3584 < image.length ∧
      step s = .fault (.loadError image.length)

/-! ## Display -/

/-- R160, with its encoding (D2, G1 for the pairing of 0x00E0 with `CLS`): `CLS` is 0x00E0, turns every pixel off, and touches nothing else but `pc`. -/
def Obligations.ClsTurnsEveryPixelOff : Prop :=
  decode 0x00E0#16 = some .cls ∧
  ∀ s : State, ∃ fb' : Framebuffer,
    exec .cls s = .next { s with fb := fb', pc := s.pc + 2#16, status := some .completed } ∧
    ∀ row col, row < 32 → col < 64 → fb'.pixel row col = false

/-- R161, R162, R163 (D8, D11, D24, G8): a `DRW` whose sprite lies in memory toggles exactly the pixels of
the grid its sprite covers, clips the rest, and VF becomes 1 if a covered pixel was on, else 0; no other
register and no byte of memory changes. With n = 0 there is nothing to read and nothing is drawn. -/
def Obligations.DrwTogglesCoveredPixels : Prop :=
  ∀ (s : State) (x y : RegIx) (n : RowCount), (n.val = 0 ∨ s.I.toNat + n.val - 1 ≤ 0xFFF) →
    ∃ (fb' : Framebuffer) (V' : Vector Byte 16),
      exec (.drw x y n) s =
        .next { s with fb := fb', V := V', pc := s.pc + 2#16, status := some .completed } ∧
      (∀ row col, row < 32 → col < 64 →
        fb'.pixel row col =
          (s.fb.pixel row col ^^
            s.spriteCovers ((s.reg x).toNat % 64) ((s.reg y).toNat % 32) n.val row col)) ∧
      ((∃ row col, row < 32 ∧ col < 64 ∧ s.fb.pixel row col = true ∧
          s.spriteCovers ((s.reg x).toNat % 64) ((s.reg y).toNat % 32) n.val row col = true) →
        V'[15] = 0x01#8) ∧
      ((¬ ∃ row col, row < 32 ∧ col < 64 ∧ s.fb.pixel row col = true ∧
          s.spriteCovers ((s.reg x).toNat % 64) ((s.reg y).toNat % 32) n.val row col = true) →
        V'[15] = 0x00#8) ∧
      ∀ r : RegIx, r ≠ 15 → V'[r] = s.reg r

/-- R164 (derived there): drawing the same sprite twice at the same place restores the framebuffer, and the
second draw collides exactly when the first turned some pixel on. -/
def Obligations.DrawingTwiceRestores : Prop :=
  ∀ (fb : Framebuffer) (x0 y0 : Nat) (sprite : List Byte),
    (draw (draw fb x0 y0 sprite).1 x0 y0 sprite).1 = fb ∧
    ((draw (draw fb x0 y0 sprite).1 x0 y0 sprite).2 = true ↔
      ∃ row col, row < 32 ∧ col < 64 ∧ fb.pixel row col = false ∧
        (draw fb x0 y0 sprite).1.pixel row col = true)

/-! ## Control flow -/

/-- R112, R114 (G4, D9, D13): an even target is jumped to; `JP_reg0` adds V[0] and does not reduce the sum
modulo 4096. -/
def Obligations.JumpsGoToEvenTargets : Prop :=
  ∀ (s : State) (nnn : Addr),
    (nnn.toNat % 2 = 0 → JumpsTo (.jp nnn) s (BitVec.ofNat 16 nnn.toNat)) ∧
    ((nnn.toNat + (s.reg 0).toNat) % 2 = 0 →
      JumpsTo (.jpReg0 nnn) s (BitVec.ofNat 16 (nnn.toNat + (s.reg 0).toNat)))

/-- R119 (D9): an odd target of `JP`, `CALL` or `JP_reg0` is latched as `MisalignedTarget` with the
instruction's own word, and nothing is pushed, whatever `sp` is (R178, D29). -/
def Obligations.OddTargetsAreLatched : Prop :=
  ∀ (s : State) (nnn : Addr),
    (nnn.toNat % 2 = 1 →
      Latches (.jp nnn) s (.misalignedTarget s.pc (some (BitVec.ofNat 16 (0x1000 + nnn.toNat)))
        (BitVec.ofNat 16 nnn.toNat)) ∧
      Latches (.call nnn) s (.misalignedTarget s.pc (some (BitVec.ofNat 16 (0x2000 + nnn.toNat)))
        (BitVec.ofNat 16 nnn.toNat))) ∧
    ((nnn.toNat + (s.reg 0).toNat) % 2 = 1 →
      Latches (.jpReg0 nnn) s (.misalignedTarget s.pc (some (BitVec.ofNat 16 (0xB000 + nnn.toNat)))
        (BitVec.ofNat 16 (nnn.toNat + (s.reg 0).toNat))))

/-- R113 (D4, D9): `CALL` to an even target with room on the stack pushes its own address. -/
def Obligations.CallPushesItsOwnAddress : Prop :=
  ∀ (s : State) (nnn : Addr) (room : s.sp.val < 16), nnn.toNat % 2 = 0 →
    ∃ stack' : Vector Word 16,
      exec (.call nnn) s = .next { s with
        stack := stack'
        sp := ⟨s.sp.val + 1, Nat.succ_lt_succ room⟩
        pc := BitVec.ofNat 16 nnn.toNat
        status := some .completed } ∧
      ∀ k : Fin 16, stack'[k] = if k.val = s.sp.val then s.pc else s.stack[k]

/-- R113, R172 (D4): the seventeenth nested `CALL` to an even target is latched as `StackOverflow`. -/
def Obligations.CallOnFullStackIsLatched : Prop :=
  ∀ (s : State) (nnn : Addr), nnn.toNat % 2 = 0 → s.sp.val = 16 →
    Latches (.call nnn) s (.stackOverflow s.pc (BitVec.ofNat 16 (0x2000 + nnn.toNat)))

/-- R111, R173 (D5, D12): `RET` resumes after the call, or is latched as `StackUnderflow` iff the stack is empty; the
popped entry stays, and in a state that meets the invariant the new `pc` is even and at most 0x1000. -/
def Obligations.RetResumesAfterTheCall : Prop :=
  ∀ s : State,
    (s.sp.val = 0 → Latches .ret s (.stackUnderflow s.pc 0x00EE#16)) ∧
    ∀ used : 0 < s.sp.val,
      exec .ret s = .next { s with
        sp := ⟨s.sp.val - 1, Nat.lt_of_le_of_lt (Nat.sub_le _ _) s.sp.isLt⟩
        pc := s.stack[s.sp.val - 1] + 2#16
        status := some .completed } ∧
      (Inv s → (s.stack[s.sp.val - 1] + 2#16).toNat % 2 = 0 ∧
        (s.stack[s.sp.val - 1] + 2#16).toNat ≤ 0x1000)

/-- R111, R113 (D4, D9): `CALL` and then `RET` comes back to the word after the `CALL`, with the stack
pointer, the registers and the memory as they were. -/
def Obligations.CallThenRetComesBack : Prop :=
  ∀ (s : State) (nnn : Addr), nnn.toNat % 2 = 0 → s.sp.val < 16 →
    ∃ t u, exec (.call nnn) s = .next t ∧ exec .ret t = .next u ∧
      u.pc = s.pc + 2#16 ∧ u.sp = s.sp ∧ u.V = s.V ∧ ∀ a, u.mem.read a = s.mem.read a

/-- R110, R77 (D19; D12 for the latch): a `SYS` word, which is neither 0x00E0 nor 0x00EE, is a no-op under
`SYS_IS_NOP` and a `DecodeError` otherwise. -/
def Obligations.SysFollowsThePolicy : Prop :=
  ∀ (s : State) (nnn : Addr), (Instr.sys nnn).wf = true →
    (s.config.sysIsNop = true → JumpsTo (.sys nnn) s (s.pc + 2#16)) ∧
    (s.config.sysIsNop = false →
      Latches (.sys nnn) s (.decodeError s.pc (BitVec.ofNat 16 nnn.toNat)))

/-- R93, R115 to R118 (G4, D32): the skips on registers write nothing but `pc`, by 4 or by 2. -/
def Obligations.RegisterSkipsMoveOnlyPc : Prop :=
  ∀ (s : State) (x y : RegIx) (kk : Byte),
    JumpsTo (.seRegByte x kk) s (if s.reg x = kk then s.pc + 4#16 else s.pc + 2#16) ∧
    JumpsTo (.sneRegByte x kk) s (if s.reg x = kk then s.pc + 2#16 else s.pc + 4#16) ∧
    JumpsTo (.seRegReg x y) s (if s.reg x = s.reg y then s.pc + 4#16 else s.pc + 2#16) ∧
    JumpsTo (.sneRegReg x y) s (if s.reg x = s.reg y then s.pc + 2#16 else s.pc + 4#16)

/-- R93, R154 to R156 (D16): the skips on keys test the level of the key named by the low nibble of V[x]
and write nothing but `pc`. -/
def Obligations.KeySkipsMoveOnlyPc : Prop :=
  ∀ (s : State) (x : RegIx) (k : KeyIx), k.val = (s.reg x).toNat % 16 →
    JumpsTo (.skp x) s (if s.keypad[k] = true then s.pc + 4#16 else s.pc + 2#16) ∧
    JumpsTo (.sknp x) s (if s.keypad[k] = true then s.pc + 2#16 else s.pc + 4#16)

/-! ## Register load, arithmetic, logic, shifts, random -/

/-- R121 to R123 (G4, D32): register loads, and the addition of an immediate, which wraps and writes no
flag. -/
def Obligations.LoadsWriteOnlyTheirRegister : Prop :=
  ∀ (s : State) (x y : RegIx) (kk : Byte),
    CompletesWithRegs (.ldRegByte x kk) s (fun r => if r = x then kk else s.reg r) ∧
    CompletesWithRegs (.addRegByte x kk) s
      (fun r => if r = x then BitVec.ofNat 8 (((s.reg x).toNat + kk.toNat) % 256) else s.reg r) ∧
    CompletesWithRegs (.ldRegReg x y) s (fun r => if r = x then s.reg y else s.reg r)

/-- R124 to R126 (D18; D7 for x = 15): bit by bit, and VF becomes 0 after the result iff
`LOGIC_RESETS_VF`. -/
def Obligations.LogicCombinesEveryBit : Prop :=
  ∀ (s : State) (x y : RegIx), ∃ a o e : Byte,
    (∀ b, b < 8 → a.getLsbD b = ((s.reg x).getLsbD b && (s.reg y).getLsbD b) ∧
      o.getLsbD b = ((s.reg x).getLsbD b || (s.reg y).getLsbD b) ∧
      e.getLsbD b = ((s.reg x).getLsbD b ^^ (s.reg y).getLsbD b)) ∧
    CompletesWithRegs (.and x y) s (fun r =>
      if r = 15 ∧ s.config.logicResetsVF = true then 0x00#8 else if r = x then a else s.reg r) ∧
    CompletesWithRegs (.or x y) s (fun r =>
      if r = 15 ∧ s.config.logicResetsVF = true then 0x00#8 else if r = x then o else s.reg r) ∧
    CompletesWithRegs (.xor x y) s (fun r =>
      if r = 15 ∧ s.config.logicResetsVF = true then 0x00#8 else if r = x then e else s.reg r)

/-- R127, R120 (D7 for x = 15): the sum modulo 256, then VF = 1 iff the sum exceeds 255. -/
def Obligations.AddWritesSumThenCarry : Prop :=
  ∀ (s : State) (x y : RegIx),
    CompletesWithRegs (.add x y) s (fun r =>
      if r = 15 then (if 255 < (s.reg x).toNat + (s.reg y).toNat then 0x01#8 else 0x00#8)
      else if r = x then BitVec.ofNat 8 (((s.reg x).toNat + (s.reg y).toNat) % 256)
      else s.reg r)

/-- R128, R130, R120 (D7 for x = 15): the difference modulo 256, then VF = 0 iff there was a borrow. -/
def Obligations.SubtractionsWriteNotBorrow : Prop :=
  ∀ (s : State) (x y : RegIx),
    CompletesWithRegs (.sub x y) s (fun r =>
      if r = 15 then (if (s.reg x).toNat < (s.reg y).toNat then 0x00#8 else 0x01#8)
      else if r = x then BitVec.ofNat 8 (((s.reg x).toNat + 256 - (s.reg y).toNat) % 256)
      else s.reg r) ∧
    CompletesWithRegs (.subn x y) s (fun r =>
      if r = 15 then (if (s.reg y).toNat < (s.reg x).toNat then 0x00#8 else 0x01#8)
      else if r = x then BitVec.ofNat 8 (((s.reg y).toNat + 256 - (s.reg x).toNat) % 256)
      else s.reg r)

/-- R129, R131 (D18, D30, G5; D7 for x = 15): the source is V[y] under `SHIFT_USES_VY` and V[x] otherwise;
it is halved, or doubled modulo 256, and VF becomes the bit shifted out. -/
def Obligations.ShiftsWriteTheBitShiftedOut : Prop :=
  ∀ (s : State) (x y : RegIx) (src : Byte),
    src = (if s.config.shiftUsesVY = true then s.reg y else s.reg x) →
    CompletesWithRegs (.shr x y) s (fun r =>
      if r = 15 then BitVec.ofNat 8 (src.toNat % 2)
      else if r = x then BitVec.ofNat 8 (src.toNat / 2)
      else s.reg r) ∧
    CompletesWithRegs (.shl x y) s (fun r =>
      if r = 15 then BitVec.ofNat 8 (src.toNat / 128)
      else if r = x then BitVec.ofNat 8 (src.toNat * 2 % 256)
      else s.reg r)

/-- R133, R97 (D20; log 5): V[x] becomes the draw AND the mask, for every draw: the byte supplied, or the
free value where none is; the draw is consumed, and nothing else changes but `pc`. -/
def Obligations.RndMasksTheDraw : Prop :=
  ∀ (s : State) (x : RegIx) (kk : Byte), ∃ (b : Byte) (V' : Vector Byte 16),
    exec (.rnd x kk) s = .next { s with
      V := V', draws := s.draws.tail, drawCount := s.drawCount + 1
      pc := s.pc + 2#16, status := some .completed } ∧
    (∀ r : RegIx, V'[r] = if r = x then b &&& kk else s.reg r) ∧
    (∀ c rest, s.draws = c :: rest → b = c) ∧
    (s.draws = [] → b = Config.randomByte s.drawCount)

/-! ## Timers and keypad -/

/-- R150, R152, R153: values move between V[x] and the timers; no timer decays. -/
def Obligations.TimerInstructionsMoveValues : Prop :=
  ∀ (s : State) (x : RegIx),
    CompletesWithRegs (.ldRegDT x) s (fun r => if r = x then s.DT else s.reg r) ∧
    exec (.ldDT x) s = .next { s with DT := s.reg x, pc := s.pc + 2#16, status := some .completed } ∧
    exec (.ldST x) s = .next { s with ST := s.reg x, pc := s.pc + 2#16, status := some .completed }

/-- R151 (D17): the wait begins, goes on, or delivers the key. -/
def Obligations.KeyWaitBlocksThenDelivers : Prop :=
  ∀ (s : State) (x : RegIx),
    (s.keyWait = .idle →
      exec (.ldRegK x) s = .next { s with keyWait := .awaitDown, status := some .needsKey }) ∧
    (s.keyWait = .awaitDown → exec (.ldRegK x) s = .next { s with status := some .needsKey }) ∧
    (∀ k, s.keyWait = .awaitUp k → exec (.ldRegK x) s = .next { s with status := some .needsKey }) ∧
    ∀ k, s.keyWait = .done k → ∃ V' : Vector Byte 16,
      exec (.ldRegK x) s = .next { s with
        V := V', keyWait := .idle, pc := s.pc + 2#16, status := some .completed } ∧
      ∀ r : RegIx, V'[r] = if r = x then BitVec.ofNat 8 k.val else s.reg r

/-- R95: only `LD_reg_K` can block, and a blocked step changes `key_wait` and nothing else (the status it
returns, and its place in the model's schedule, log 3, apart). -/
def Obligations.OnlyLdRegKBlocks : Prop :=
  ∀ s t : State, s.driverNext → step s = .next t → t.status = some .needsKey →
    (∃ x, s.fetches (.ldRegK x)) ∧
    t = { s.popEvent with keyWait := t.keyWait, status := some .needsKey }

/-! ## Index register and memory -/

/-- R141, R143 (G4, D15, D32): `I` becomes the address, or the address of the glyph of the low nibble of
V[x]. -/
def Obligations.IndexLoadsSetI : Prop :=
  ∀ (s : State) (nnn : Addr) (x : RegIx),
    exec (.ldIAddr nnn) s = .next { s with
      I := BitVec.ofNat 16 nnn.toNat, pc := s.pc + 2#16, status := some .completed } ∧
    exec (.ldFReg x) s = .next { s with
      I := BitVec.ofNat 16 (5 * ((s.reg x).toNat % 16)), pc := s.pc + 2#16, status := some .completed }

/-- R142 (D13, D14, G7): the sum modulo 2^16; VF becomes the out-of-range test iff `ADD_I_SETS_VF`. -/
def Obligations.AddToIndexWraps : Prop :=
  ∀ (s : State) (x : RegIx), ∃ V' : Vector Byte 16,
    exec (.addIReg x) s = .next { s with
      V := V', I := BitVec.ofNat 16 ((s.I.toNat + (s.reg x).toNat) % 65536)
      pc := s.pc + 2#16, status := some .completed } ∧
    ∀ r : RegIx, V'[r] =
      if r = 15 ∧ s.config.addISetsVF = true then
        (if 0x0FFF < s.I.toNat + (s.reg x).toNat then 0x01#8 else 0x00#8)
      else s.reg r

/-- R144 (D11, D33): hundreds, tens and units at `I`, `I + 1`, `I + 2`; every other byte as before. -/
def Obligations.BcdStoresThreeDigits : Prop :=
  ∀ (s : State) (x : RegIx), s.I.toNat + 2 ≤ 0xFFF →
    ∃ mem' : Memory,
      exec (.ldBReg x) s = .next { s with
        mem := mem', pc := s.pc + 2#16, status := some .completed } ∧
      ∀ a, mem'.read a =
        if a = s.I.toNat then BitVec.ofNat 8 ((s.reg x).toNat / 100)
        else if a = s.I.toNat + 1 then BitVec.ofNat 8 ((s.reg x).toNat / 10 % 10)
        else if a = s.I.toNat + 2 then BitVec.ofNat 8 ((s.reg x).toNat % 10)
        else s.mem.read a

/-- R145 (D11, D18): V[0] .. V[x] at `I` upward, every other byte as before; `I` moves iff
`LOADSTORE_INCREMENTS_I`. -/
def Obligations.DumpStoresRegistersUpToX : Prop :=
  ∀ (s : State) (x : RegIx), s.I.toNat + x.val ≤ 0xFFF →
    ∃ mem' : Memory,
      exec (.ldIReg x) s = .next { s with
        mem := mem'
        I := if s.config.loadstoreIncrementsI = true then BitVec.ofNat 16 (s.I.toNat + x.val + 1)
          else s.I
        pc := s.pc + 2#16, status := some .completed } ∧
      (∀ k : RegIx, k ≤ x → mem'.read (s.I.toNat + k.val) = s.reg k) ∧
      ∀ a, a < s.I.toNat ∨ s.I.toNat + x.val < a → mem'.read a = s.mem.read a

/-- R146 (D11, D18): V[0] .. V[x] from `I` upward, the other registers and memory as before. -/
def Obligations.LoadFillsRegistersUpToX : Prop :=
  ∀ (s : State) (x : RegIx), s.I.toNat + x.val ≤ 0xFFF →
    ∃ V' : Vector Byte 16,
      exec (.ldRegI x) s = .next { s with
        V := V'
        I := if s.config.loadstoreIncrementsI = true then BitVec.ofNat 16 (s.I.toNat + x.val + 1)
          else s.I
        pc := s.pc + 2#16, status := some .completed } ∧
      ∀ r : RegIx, V'[r] = if r ≤ x then s.mem.read (s.I.toNat + r.val) else s.reg r

/-- R140, R55 (D11): a memory instruction whose highest address exceeds 0xFFF is latched as
`MemOutOfRange` with its own word and the lowest address out of range, and stores and loads nothing. -/
def Obligations.AccessPastMemoryIsLatched : Prop :=
  ∀ (s : State) (x y : RegIx) (n : RowCount),
    (0xFFF < s.I.toNat + 2 →
      Latches (.ldBReg x) s (.memOutOfRange s.pc (BitVec.ofNat 16 (0xF033 + 256 * x.val))
        (max s.I.toNat 0x1000))) ∧
    (0xFFF < s.I.toNat + x.val →
      Latches (.ldIReg x) s (.memOutOfRange s.pc (BitVec.ofNat 16 (0xF055 + 256 * x.val))
        (max s.I.toNat 0x1000)) ∧
      Latches (.ldRegI x) s (.memOutOfRange s.pc (BitVec.ofNat 16 (0xF065 + 256 * x.val))
        (max s.I.toNat 0x1000))) ∧
    (0 < n.val → 0xFFF < s.I.toNat + n.val - 1 →
      Latches (.drw x y n) s (.memOutOfRange s.pc
        (BitVec.ofNat 16 (0xD000 + 256 * x.val + 16 * y.val + n.val)) (max s.I.toNat 0x1000)))

/-- R62 (derived there), over R144 and R145 (D11, D33): after a completed `LD_I_reg` or `LD_B_reg` the word
fetched at `pc + 2`, the very next one, is made of the bytes just stored, and of the bytes as before where
the store did not reach; `b` is memory as the store leaves it, whether it covers both bytes of that word,
one, or none. -/
def Obligations.StoredCodeIsFetchedNext : Prop :=
  ∀ (s t : State) (x : RegIx) (b : Nat → Byte),
    (s.I.toNat + x.val ≤ 0xFFF → exec (.ldIReg x) s = .next t →
      (∀ k : RegIx, k ≤ x → b (s.I.toNat + k.val) = s.reg k) →
      (∀ a, a < s.I.toNat ∨ s.I.toNat + x.val < a → b a = s.mem.read a) →
      t.fetchedWord = BitVec.ofNat 16
        ((b (s.pc + 2#16).toNat).toNat * 256 + (b ((s.pc + 2#16).toNat + 1)).toNat)) ∧
    (s.I.toNat + 2 ≤ 0xFFF → exec (.ldBReg x) s = .next t →
      b s.I.toNat = BitVec.ofNat 8 ((s.reg x).toNat / 100) →
      b (s.I.toNat + 1) = BitVec.ofNat 8 ((s.reg x).toNat / 10 % 10) →
      b (s.I.toNat + 2) = BitVec.ofNat 8 ((s.reg x).toNat % 10) →
      (∀ a, a < s.I.toNat ∨ s.I.toNat + 2 < a → b a = s.mem.read a) →
      t.fetchedWord = BitVec.ofNat 16
        ((b (s.pc + 2#16).toNat).toNat * 256 + (b ((s.pc + 2#16).toNat + 1)).toNat))

/-- The model's own (log 8): two memories in the canonical form that read the same at every address are
the same data. -/
def Obligations.EqualReadsMakeEqualMemories : Prop :=
  ∀ m m' : Memory, m.wf → m'.wf → (∀ a, m.read a = m'.read a) → m = m'

/-! ## The other agents -/

/-- R180: both timers fall by the whole periods in the elapsed time, clamped at 0, and nothing else of the
machine changes (the action leaves the model's schedule, log 3); `Tick(e)` equals as many pulses `Tick(16667)`. -/
def Obligations.TickLowersBothTimers : Prop :=
  ∀ (s : State) (e : Nat),
    (∀ rest, s.schedule = .tick e :: rest →
      step s = .next { s with
        schedule := rest
        DT := BitVec.ofNat 8 (s.DT.toNat - e / 16667)
        ST := BitVec.ofNat 8 (s.ST.toNat - e / 16667) }) ∧
    s.tick e = (fun u : State => u.tick 16667)^[e / 16667] s

/-- R184 to R186 (D17): the level is set, and the key-wait latch moves on a transition judged by the old
level; nothing else changes. -/
def Obligations.SetKeySetsLevelAndMovesLatch : Prop :=
  ∀ (s : State) (k : KeyIx) (pressed : Bool) (rest : List Event),
    s.schedule = .setKey k pressed :: rest →
    ∃ (keypad' : Vector Bool 16) (wait' : KeyWait),
      step s = .next { s with schedule := rest, keypad := keypad', keyWait := wait' } ∧
      (∀ j : KeyIx, keypad'[j] = if j = k then pressed else s.keypad[j]) ∧
      (pressed = s.keypad[k] → wait' = s.keyWait) ∧
      (s.keyWait = .idle → wait' = .idle) ∧
      (s.keyWait = .awaitDown → pressed = false → wait' = .awaitDown) ∧
      (s.keyWait = .awaitDown → pressed = true → s.keypad[k] = false →
        wait' = if s.config.keyWaitOnRelease = true then .awaitUp k else .done k) ∧
      (∀ j, s.keyWait = .awaitUp j → pressed = false → s.keypad[k] = true → k = j → wait' = .done j) ∧
      (∀ j, s.keyWait = .awaitUp j → (pressed = true ∨ k ≠ j) → wait' = .awaitUp j) ∧
      (∀ j, s.keyWait = .done j → wait' = .done j)

/-- R200, R202 (D6, D27; R52 with G2 for the font): `Reset(image)` makes the state afresh and keeps the
configuration; the font is the one `ResetLeavesTheTabledValues` writes out. The status and the lists of the
environment are the model's own (log 3, 4, 5, 12). -/
def Obligations.ResetCreatesTheStateAfresh : Prop :=
  ∀ (s : State) (image : List Byte) (rest : List Event),
    s.schedule = .reset image :: rest → image.length ≤ 3584 →
    ∃ mem' : Memory,
      step s = .next {
        V := Vector.replicate 16 0x00#8, I := 0x0000#16, pc := 0x0200#16
        stack := Vector.replicate 16 0x0000#16, sp := 0, DT := 0x00#8, ST := 0x00#8
        keypad := Vector.replicate 16 false
        fb := Vector.replicate 32 (Vector.replicate 64 false)
        mem := mem', keyWait := .idle, fault := none, config := s.config, status := none
        schedule := rest, draws := s.draws, drawCount := s.drawCount } ∧
      ∀ a, mem'.read a =
        if a < 0x050 then State.reset.mem.read a
        else if 0x200 ≤ a ∧ a < 0x200 + image.length then image.getD (a - 0x200) 0x00#8
        else 0x00#8

/-- R201, R174 (D27; log 6): a longer image is `LoadError`, and there is no state after it. -/
def Obligations.OversizedImageIsLoadError : Prop :=
  ∀ (s : State) (image : List Byte) (rest : List Event),
    s.schedule = .reset image :: rest → 3584 < image.length →
    step s = .fault (.loadError image.length)

/-- R35 (D6 for `pc`, `I`, `keypad`, `fb` and free memory), R52 (G2): the values after a reset with an
empty image, with the 16 glyphs of the font written out from the table of R52, digit `d` at 5 * d. -/
def Obligations.ResetLeavesTheTabledValues : Prop :=
  (∀ r : RegIx, State.reset.reg r = 0x00#8) ∧ (∀ k : Fin 16, State.reset.stack[k] = 0x0000#16) ∧
  State.reset.I = 0x0000#16 ∧ State.reset.pc = 0x0200#16 ∧ State.reset.sp.val = 0 ∧
  State.reset.DT = 0x00#8 ∧ State.reset.ST = 0x00#8 ∧ (∀ k : KeyIx, State.reset.keypad[k] = false) ∧
  (∀ row col, row < 32 → col < 64 → State.reset.fb.pixel row col = false) ∧
  State.reset.keyWait = .idle ∧ State.reset.fault = none ∧
  ((List.range 16).map fun d => State.reset.mem.readList (5 * d) 5) =
    [[0xF0#8, 0x90#8, 0x90#8, 0x90#8, 0xF0#8], [0x20#8, 0x60#8, 0x20#8, 0x20#8, 0x70#8],
     [0xF0#8, 0x10#8, 0xF0#8, 0x80#8, 0xF0#8], [0xF0#8, 0x10#8, 0xF0#8, 0x10#8, 0xF0#8],
     [0x90#8, 0x90#8, 0xF0#8, 0x10#8, 0x10#8], [0xF0#8, 0x80#8, 0xF0#8, 0x10#8, 0xF0#8],
     [0xF0#8, 0x80#8, 0xF0#8, 0x90#8, 0xF0#8], [0xF0#8, 0x10#8, 0x20#8, 0x40#8, 0x40#8]] ++
    [[0xF0#8, 0x90#8, 0xF0#8, 0x90#8, 0xF0#8], [0xF0#8, 0x90#8, 0xF0#8, 0x10#8, 0xF0#8],
     [0xF0#8, 0x90#8, 0xF0#8, 0x90#8, 0x90#8], [0xE0#8, 0x90#8, 0xE0#8, 0x90#8, 0xE0#8],
     [0xF0#8, 0x80#8, 0x80#8, 0x80#8, 0xF0#8], [0xE0#8, 0x90#8, 0x90#8, 0x90#8, 0xE0#8],
     [0xF0#8, 0x80#8, 0xF0#8, 0x80#8, 0xF0#8], [0xF0#8, 0x80#8, 0xF0#8, 0x80#8, 0x80#8]] ∧
  ∀ a, 0x050 ≤ a → State.reset.mem.read a = 0x00#8

/-! ## Rules of the whole machine -/

/-- The invariant holds after reset (R35; D6 for `pc`). That no fault is the last status there rests on the
model's own status field, none before the first `Step` (log 4); the form of memory is log 8. -/
def Obligations.InvariantHoldsAtReset : Prop := Inv State.reset

/-- R24, R25, R26, R111, R151, R174, R176, R177 (D6, D9, D12, D13, D17, D27): every step, of whichever
agent, keeps the invariant. Three things in it are the model's own: the form of memory (log 8), the next
action (log 3), and the status field, which a `Reset` clears (log 4, log 12), so that after it no fault is
the last status. -/
def Obligations.StepKeepsTheInvariant : Prop :=
  ∀ s t : State, Inv s → step s = .next t → Inv t

/-- R36 (derived there): an instruction leaves every piece of state alone that its row of the table does
not mark, memory byte by byte; and no instruction touches the configuration (R202) or the schedule. -/
def Obligations.InstructionsWriteOnlyTabledState : Prop :=
  ∀ (i : Instr) (s t : State), exec i s = .next t →
    (∀ c : Component, mayWrite s.config i c = false → c.Same s t) ∧
    t.config = s.config ∧ t.schedule = s.schedule

/-- R59: only `Reset`, `LD_B_reg` and `LD_I_reg` write memory. -/
def Obligations.OnlyResetAndStoresWriteMemory : Prop :=
  ∀ s t : State, step s = .next t → ∀ a, t.mem.read a ≠ s.mem.read a →
    (∃ image, s.nextEvent = .reset image) ∨
    (s.driverNext ∧ ∃ x, s.fetches (.ldBReg x) ∨ s.fetches (.ldIReg x))

/-- R208 (derived there), R27, R182 (D22): a timer rises only by its load instruction, and falls only by a
`Tick`, a `Reset` or that load. -/
def Obligations.TimersMoveOnlyByLoadAndTick : Prop :=
  ∀ s t : State, step s = .next t →
    (s.DT.toNat < t.DT.toNat → s.driverNext ∧ ∃ x, s.fetches (.ldDT x)) ∧
    (s.ST.toNat < t.ST.toNat → s.driverNext ∧ ∃ x, s.fetches (.ldST x)) ∧
    (t.DT.toNat < s.DT.toNat →
      (∃ e, s.nextEvent = .tick e) ∨ (∃ image, s.nextEvent = .reset image) ∨
      (s.driverNext ∧ ∃ x, s.fetches (.ldDT x))) ∧
    (t.ST.toNat < s.ST.toNat →
      (∃ e, s.nextEvent = .tick e) ∨ (∃ image, s.nextEvent = .reset image) ∨
      (s.driverNext ∧ ∃ x, s.fetches (.ldST x)))

/-- R183: `sound_active` is `ST > 0`, and changes only by `LD_ST`, a `Tick` or a `Reset`. -/
def Obligations.SoundActiveFollowsST : Prop :=
  (∀ s : State, s.soundActive = true ↔ 0 < s.ST.toNat) ∧
  ∀ s t : State, step s = .next t → t.soundActive ≠ s.soundActive →
    (∃ e, s.nextEvent = .tick e) ∨ (∃ image, s.nextEvent = .reset image) ∨
    (s.driverNext ∧ ∃ x, s.fetches (.ldST x))

/-- R202, R6: no action changes the configuration. -/
def Obligations.ConfigIsConstant : Prop :=
  ∀ s t : State, step s = .next t → t.config = s.config

/-- R176 (D12): a step that raises a fault latches and reports it and changes nothing else, whatever
instruction it met; only the driver's steps raise. -/
def Obligations.FaultEntryIsPrecise : Prop :=
  ∀ s t : State, step s = .next t → s.fault = none → ∀ f, t.fault = some f →
    s.driverNext ∧ t = { s.popEvent with fault := some f, status := some (.fault f) }

/-- R170 (D12): a raised fault records the `pc` of the step, and the word it records is the word that was
fetched. -/
def Obligations.FaultRecordsPcAndFetchedWord : Prop :=
  ∀ s t : State, step s = .next t → s.fault = none → ∀ f, t.fault = some f →
    f.pc? = some s.pc ∧ ∀ op, f.op? = some op → op = s.fetchedWord

/-- R177, R182, R187 (D12, D22): a latched fault stays, and every `Step` reports it and changes nothing
else, until a `Reset`. -/
def Obligations.LatchedFaultStaysUntilReset : Prop :=
  ∀ (s t : State) (f : Fault), s.fault = some f → step s = .next t →
    ((∃ image, s.nextEvent = .reset image) ∧ t.fault = none) ∨
    (t.fault = some f ∧ (s.driverNext → t = { s.popEvent with status := some (.fault f) }))

/-- R171, R176 (D12, D19): `DecodeError` is raised for every `Unknown` word, and by `SYS` under `SYS_IS_NOP = false`, with
the `pc` and the raw word; and by nothing else. -/
def Obligations.DecodeErrorForUnknownAndSys : Prop :=
  ∀ s : State, s.driverNext → s.fault = none →
    (s.fetchable →
      (decode s.fetchedWord = none ∨
        ((∃ nnn, decode s.fetchedWord = some (.sys nnn)) ∧ s.config.sysIsNop = false)) →
      step s = .next { s.popEvent with
        fault := some (.decodeError s.pc s.fetchedWord)
        status := some (.fault (.decodeError s.pc s.fetchedWord)) }) ∧
    ∀ t pc op, step s = .next t → t.fault = some (.decodeError pc op) →
      decode s.fetchedWord = none ∨
        ((∃ nnn, decode s.fetchedWord = some (.sys nnn)) ∧ s.config.sysIsNop = false)

/-- R24 (D13; C5 of 90_conflicts.md): the `pc` after a `Step`. -/
def Obligations.NextPcIsOneOfFive : Prop :=
  ∀ s t : State, s.driverNext → step s = .next t →
    t.pc = s.pc ∨ t.pc = s.pc + 2#16 ∨ t.pc = s.pc + 4#16 ∨
    (∃ nnn, (s.fetches (.jp nnn) ∨ s.fetches (.call nnn)) ∧ t.pc = BitVec.ofNat 16 nnn.toNat) ∨
    (∃ nnn, s.fetches (.jpReg0 nnn) ∧ t.pc = BitVec.ofNat 16 (nnn.toNat + (s.reg 0).toNat)) ∨
    (s.fetches .ret ∧ ∃ h : 0 < s.sp.val, t.pc = s.stack[s.sp.val - 1] + 2#16)

/-- R99 (derived there; D26), R112: in the driver's turn a jump to its own address completes and changes
nothing but the status and the model's schedule (log 3); with an empty schedule and status `Completed` the
state is a fixed point. -/
def Obligations.SelfJumpIsAFixedPoint : Prop :=
  ∀ (s : State) (nnn : Addr), s.driverNext → s.fetches (.jp nnn) → nnn.toNat = s.pc.toNat →
    step s = .next { s.popEvent with status := some .completed } ∧
    (s.schedule = [] → s.status = some .completed → step s = .next s)
end

