-- ==== Sys2Proof/Laws/Memory.lean ====
section
/-! SUPPORT. The laws of memory: a read after a write, and the canonical form is kept. -/

namespace Sys2Proof.Machine

/-! ## Read after write -/

theorem Memory.read_erase (m : Memory) (a b : Nat) :
    (m.erase a).read b = if a = b then resetByte b else m.read b := by
  induction m with
  | nil => simp [Memory.erase, Memory.read]
  | cons c rest ih =>
    obtain ⟨k, v⟩ := c
    by_cases hk : k = a
    · subst hk
      rw [Memory.erase, if_pos rfl, ih, Memory.read]
      split <;> rfl
    · rw [Memory.erase, if_neg hk, Memory.read, Memory.read, ih]
      by_cases hb : a = b
      · subst hb; simp [hk]
      · simp [hb]

theorem Memory.read_insert_self (m : Memory) (a : Nat) (v : Byte) (h : ∀ c ∈ m, c.1 ≠ a) :
    (m.insert a v).read a = v := by
  induction m with
  | nil => simp [Memory.insert, Memory.read]
  | cons c rest ih =>
    obtain ⟨k, w⟩ := c
    have hk : k ≠ a := h (k, w) (by simp)
    by_cases ha : a < k
    · simp [Memory.insert, Memory.read, ha]
    · simp [Memory.insert, Memory.read, ha, hk, ih fun c hc => h c (List.mem_cons_of_mem _ hc)]

theorem Memory.read_insert_other (m : Memory) (a b : Nat) (v : Byte) (h : a ≠ b) :
    (m.insert a v).read b = m.read b := by
  induction m with
  | nil => simp [Memory.insert, Memory.read, h]
  | cons c rest ih =>
    obtain ⟨k, w⟩ := c
    by_cases ha : a < k
    · simp [Memory.insert, Memory.read, ha, h]
    · rw [Memory.insert, if_neg ha, Memory.read, Memory.read, ih]

theorem Memory.mem_erase {m : Memory} {a : Nat} {c : Host.Cell} :
    c ∈ m.erase a ↔ c ∈ m ∧ c.1 ≠ a := by
  induction m with
  | nil => simp [Memory.erase]
  | cons d rest ih =>
    obtain ⟨k, v⟩ := d
    by_cases hk : k = a
    · simp only [Memory.erase, if_pos hk, ih, List.mem_cons]
      constructor
      · rintro ⟨h, hne⟩; exact ⟨.inr h, hne⟩
      · rintro ⟨rfl | h, hne⟩
        · exact absurd hk hne
        · exact ⟨h, hne⟩
    · simp only [Memory.erase, if_neg hk, List.mem_cons, ih]
      constructor
      · rintro (rfl | ⟨h, hne⟩)
        · exact ⟨.inl rfl, hk⟩
        · exact ⟨.inr h, hne⟩
      · rintro ⟨rfl | h, hne⟩
        · exact .inl rfl
        · exact .inr ⟨h, hne⟩

/-- A read after a write gives the value written at that address and what was there elsewhere. -/
@[simp] theorem Memory.read_write (m : Memory) (a b : Nat) (v : Byte) :
    (m.write a v).read b = if a = b then v else m.read b := by
  unfold Memory.write
  by_cases hv : v = resetByte a
  · rw [if_pos hv, Memory.read_erase]
    by_cases hb : a = b
    · subst hb; simp [hv]
    · simp [hb]
  · rw [if_neg hv]
    by_cases hb : a = b
    · subst hb
      rw [if_pos rfl, Memory.read_insert_self]
      exact fun c hc => (Memory.mem_erase.mp hc).2
    · rw [if_neg hb, Memory.read_insert_other _ _ _ _ hb, Memory.read_erase, if_neg hb]

/-- A read after storing a list of bytes: the stored bytes at their places, the rest as before. -/
theorem Memory.read_writeList (m : Memory) (a b : Nat) (bs : List Byte) :
    (m.writeList a bs).read b =
      if a ≤ b ∧ b < a + bs.length then bs.getD (b - a) 0x00#8 else m.read b := by
  induction bs generalizing m a with
  | nil => simp [Memory.writeList]
  | cons v vs ih =>
    rw [Memory.writeList, ih, Memory.read_write]
    by_cases h1 : a = b
    · subst h1; simp
    · by_cases h2 : a + 1 ≤ b ∧ b < a + 1 + vs.length
      · have h3 : a ≤ b ∧ b < a + (v :: vs).length := by simp; omega
        have h4 : b - a = (b - (a + 1)) + 1 := by omega
        rw [if_pos h2, if_pos h3, h4]; simp
      · have h3 : ¬ (a ≤ b ∧ b < a + (v :: vs).length) := by simp; omega
        rw [if_neg h2, if_neg h3, if_neg h1]

theorem Memory.length_readList (m : Memory) (a n : Nat) : (m.readList a n).length = n := by
  simp [Memory.readList]

theorem Memory.getD_readList (m : Memory) (a n i : Nat) (h : i < n) :
    (m.readList a n).getD i 0x00#8 = m.read (a + i) := by
  simp [Memory.readList, h]

/-! ## The canonical form -/

theorem Memory.wf_nil : Memory.wf [] := ⟨List.Pairwise.nil, by simp⟩

theorem Memory.mem_insert {m : Memory} {a : Nat} {v : Byte} {c : Host.Cell} :
    c ∈ m.insert a v ↔ c = (a, v) ∨ c ∈ m := by
  induction m with
  | nil => simp [Memory.insert]
  | cons d rest ih =>
    obtain ⟨k, w⟩ := d
    by_cases ha : a < k
    · simp [Memory.insert, ha]
    · simp only [Memory.insert, if_neg ha, List.mem_cons, ih]; tauto

theorem Memory.wf_erase {m : Memory} (h : m.wf) (a : Nat) : (m.erase a).wf := by
  refine ⟨?_, fun c hc => h.2 c (Memory.mem_erase.mp hc).1⟩
  have hs := h.1
  clear h
  induction m with
  | nil => simp [Memory.erase]
  | cons d rest ih =>
    obtain ⟨k, w⟩ := d
    obtain ⟨hk, hrest⟩ := List.pairwise_cons.mp hs
    by_cases ha : k = a
    · simpa [Memory.erase, ha] using ih hrest
    · rw [Memory.erase, if_neg ha]
      exact List.pairwise_cons.mpr ⟨fun c hc => hk c (Memory.mem_erase.mp hc).1, ih hrest⟩

theorem Memory.wf_insert {m : Memory} (h : m.wf) {a : Nat} {v : Byte} (ha : a ≤ 0xFFF)
    (hv : v ≠ resetByte a) (hno : ∀ c ∈ m, c.1 ≠ a) : (m.insert a v).wf := by
  constructor
  · have hs := h.1
    clear h
    induction m with
    | nil => simp [Memory.insert]
    | cons d rest ih =>
      obtain ⟨k, w⟩ := d
      obtain ⟨hk, hrest⟩ := List.pairwise_cons.mp hs
      have hka : k ≠ a := hno (k, w) (by simp)
      by_cases hlt : a < k
      · rw [Memory.insert, if_pos hlt]
        refine List.pairwise_cons.mpr ⟨?_, hs⟩
        intro c hc
        rcases List.mem_cons.mp hc with rfl | hc
        · exact hlt
        · exact Nat.lt_trans hlt (hk c hc)
      · rw [Memory.insert, if_neg hlt]
        refine List.pairwise_cons.mpr ⟨?_, ih (fun c hc => hno c (List.mem_cons_of_mem _ hc)) hrest⟩
        intro c hc
        rcases Memory.mem_insert.mp hc with rfl | hc
        · simp only; omega
        · exact hk c hc
  · intro c hc
    rcases Memory.mem_insert.mp hc with rfl | hc
    · exact ⟨ha, hv⟩
    · exact h.2 c hc

/-- A write to an address that exists keeps the canonical form. -/
theorem Memory.wf_write {m : Memory} (h : m.wf) {a : Nat} (v : Byte) (ha : a ≤ 0xFFF) :
    (m.write a v).wf := by
  unfold Memory.write
  split
  · exact Memory.wf_erase h a
  · next hv =>
    exact Memory.wf_insert (Memory.wf_erase h a) ha hv fun c hc => (Memory.mem_erase.mp hc).2

/-- Storing bytes at addresses that all exist keeps the canonical form. -/
theorem Memory.wf_writeList {m : Memory} (h : m.wf) {a : Nat} {bs : List Byte}
    (ha : a + bs.length ≤ 0x1000) : (m.writeList a bs).wf := by
  induction bs generalizing m a with
  | nil => exact h
  | cons v vs ih =>
    simp only [List.length_cons] at ha
    exact ih (Memory.wf_write h v (by omega)) (by omega)

end Sys2Proof.Machine
end

