-- ==== Sys2Proof/Laws/State.lean ====
section
/-! SUPPORT. One lemma per field per named update of the state: an update leaves every other field alone. -/

namespace Sys2Proof.Machine

variable (s : State)

/-! ### setReg -/

@[simp] theorem State.setReg_I (r : RegIx) (v : Byte) : (s.setReg r v).I = s.I := rfl
@[simp] theorem State.setReg_pc (r : RegIx) (v : Byte) : (s.setReg r v).pc = s.pc := rfl
@[simp] theorem State.setReg_stack (r : RegIx) (v : Byte) : (s.setReg r v).stack = s.stack := rfl
@[simp] theorem State.setReg_sp (r : RegIx) (v : Byte) : (s.setReg r v).sp = s.sp := rfl
@[simp] theorem State.setReg_DT (r : RegIx) (v : Byte) : (s.setReg r v).DT = s.DT := rfl
@[simp] theorem State.setReg_ST (r : RegIx) (v : Byte) : (s.setReg r v).ST = s.ST := rfl
@[simp] theorem State.setReg_keypad (r : RegIx) (v : Byte) : (s.setReg r v).keypad = s.keypad := rfl
@[simp] theorem State.setReg_fb (r : RegIx) (v : Byte) : (s.setReg r v).fb = s.fb := rfl
@[simp] theorem State.setReg_mem (r : RegIx) (v : Byte) : (s.setReg r v).mem = s.mem := rfl
@[simp] theorem State.setReg_keyWait (r : RegIx) (v : Byte) : (s.setReg r v).keyWait = s.keyWait := rfl
@[simp] theorem State.setReg_fault (r : RegIx) (v : Byte) : (s.setReg r v).fault = s.fault := rfl
@[simp] theorem State.setReg_config (r : RegIx) (v : Byte) : (s.setReg r v).config = s.config := rfl
@[simp] theorem State.setReg_status (r : RegIx) (v : Byte) : (s.setReg r v).status = s.status := rfl
@[simp] theorem State.setReg_schedule (r : RegIx) (v : Byte) : (s.setReg r v).schedule = s.schedule := rfl
@[simp] theorem State.setReg_draws (r : RegIx) (v : Byte) : (s.setReg r v).draws = s.draws := rfl
@[simp] theorem State.setReg_drawCount (r : RegIx) (v : Byte) : (s.setReg r v).drawCount = s.drawCount := rfl

/-! ### setI -/

@[simp] theorem State.setI_V (w : Word) : (s.setI w).V = s.V := rfl
@[simp] theorem State.setI_pc (w : Word) : (s.setI w).pc = s.pc := rfl
@[simp] theorem State.setI_stack (w : Word) : (s.setI w).stack = s.stack := rfl
@[simp] theorem State.setI_sp (w : Word) : (s.setI w).sp = s.sp := rfl
@[simp] theorem State.setI_DT (w : Word) : (s.setI w).DT = s.DT := rfl
@[simp] theorem State.setI_ST (w : Word) : (s.setI w).ST = s.ST := rfl
@[simp] theorem State.setI_keypad (w : Word) : (s.setI w).keypad = s.keypad := rfl
@[simp] theorem State.setI_fb (w : Word) : (s.setI w).fb = s.fb := rfl
@[simp] theorem State.setI_mem (w : Word) : (s.setI w).mem = s.mem := rfl
@[simp] theorem State.setI_keyWait (w : Word) : (s.setI w).keyWait = s.keyWait := rfl
@[simp] theorem State.setI_fault (w : Word) : (s.setI w).fault = s.fault := rfl
@[simp] theorem State.setI_config (w : Word) : (s.setI w).config = s.config := rfl
@[simp] theorem State.setI_status (w : Word) : (s.setI w).status = s.status := rfl
@[simp] theorem State.setI_schedule (w : Word) : (s.setI w).schedule = s.schedule := rfl
@[simp] theorem State.setI_draws (w : Word) : (s.setI w).draws = s.draws := rfl
@[simp] theorem State.setI_drawCount (w : Word) : (s.setI w).drawCount = s.drawCount := rfl

/-! ### store -/

@[simp] theorem State.store_V (a : Nat) (bs : List Byte) : (s.store a bs).V = s.V := rfl
@[simp] theorem State.store_I (a : Nat) (bs : List Byte) : (s.store a bs).I = s.I := rfl
@[simp] theorem State.store_pc (a : Nat) (bs : List Byte) : (s.store a bs).pc = s.pc := rfl
@[simp] theorem State.store_stack (a : Nat) (bs : List Byte) : (s.store a bs).stack = s.stack := rfl
@[simp] theorem State.store_sp (a : Nat) (bs : List Byte) : (s.store a bs).sp = s.sp := rfl
@[simp] theorem State.store_DT (a : Nat) (bs : List Byte) : (s.store a bs).DT = s.DT := rfl
@[simp] theorem State.store_ST (a : Nat) (bs : List Byte) : (s.store a bs).ST = s.ST := rfl
@[simp] theorem State.store_keypad (a : Nat) (bs : List Byte) : (s.store a bs).keypad = s.keypad := rfl
@[simp] theorem State.store_fb (a : Nat) (bs : List Byte) : (s.store a bs).fb = s.fb := rfl
@[simp] theorem State.store_keyWait (a : Nat) (bs : List Byte) : (s.store a bs).keyWait = s.keyWait := rfl
@[simp] theorem State.store_fault (a : Nat) (bs : List Byte) : (s.store a bs).fault = s.fault := rfl
@[simp] theorem State.store_config (a : Nat) (bs : List Byte) : (s.store a bs).config = s.config := rfl
@[simp] theorem State.store_status (a : Nat) (bs : List Byte) : (s.store a bs).status = s.status := rfl
@[simp] theorem State.store_schedule (a : Nat) (bs : List Byte) : (s.store a bs).schedule = s.schedule := rfl
@[simp] theorem State.store_draws (a : Nat) (bs : List Byte) : (s.store a bs).draws = s.draws := rfl
@[simp] theorem State.store_drawCount (a : Nat) (bs : List Byte) : (s.store a bs).drawCount = s.drawCount := rfl

/-! ### setFlag -/

@[simp] theorem State.setFlag_I (c : Bool) : (s.setFlag c).I = s.I := rfl
@[simp] theorem State.setFlag_pc (c : Bool) : (s.setFlag c).pc = s.pc := rfl
@[simp] theorem State.setFlag_stack (c : Bool) : (s.setFlag c).stack = s.stack := rfl
@[simp] theorem State.setFlag_sp (c : Bool) : (s.setFlag c).sp = s.sp := rfl
@[simp] theorem State.setFlag_DT (c : Bool) : (s.setFlag c).DT = s.DT := rfl
@[simp] theorem State.setFlag_ST (c : Bool) : (s.setFlag c).ST = s.ST := rfl
@[simp] theorem State.setFlag_keypad (c : Bool) : (s.setFlag c).keypad = s.keypad := rfl
@[simp] theorem State.setFlag_fb (c : Bool) : (s.setFlag c).fb = s.fb := rfl
@[simp] theorem State.setFlag_mem (c : Bool) : (s.setFlag c).mem = s.mem := rfl
@[simp] theorem State.setFlag_keyWait (c : Bool) : (s.setFlag c).keyWait = s.keyWait := rfl
@[simp] theorem State.setFlag_fault (c : Bool) : (s.setFlag c).fault = s.fault := rfl
@[simp] theorem State.setFlag_config (c : Bool) : (s.setFlag c).config = s.config := rfl
@[simp] theorem State.setFlag_status (c : Bool) : (s.setFlag c).status = s.status := rfl
@[simp] theorem State.setFlag_schedule (c : Bool) : (s.setFlag c).schedule = s.schedule := rfl
@[simp] theorem State.setFlag_draws (c : Bool) : (s.setFlag c).draws = s.draws := rfl
@[simp] theorem State.setFlag_drawCount (c : Bool) : (s.setFlag c).drawCount = s.drawCount := rfl

/-! ### dropDraw -/

@[simp] theorem State.dropDraw_V : (s.dropDraw).V = s.V := rfl
@[simp] theorem State.dropDraw_I : (s.dropDraw).I = s.I := rfl
@[simp] theorem State.dropDraw_pc : (s.dropDraw).pc = s.pc := rfl
@[simp] theorem State.dropDraw_stack : (s.dropDraw).stack = s.stack := rfl
@[simp] theorem State.dropDraw_sp : (s.dropDraw).sp = s.sp := rfl
@[simp] theorem State.dropDraw_DT : (s.dropDraw).DT = s.DT := rfl
@[simp] theorem State.dropDraw_ST : (s.dropDraw).ST = s.ST := rfl
@[simp] theorem State.dropDraw_keypad : (s.dropDraw).keypad = s.keypad := rfl
@[simp] theorem State.dropDraw_fb : (s.dropDraw).fb = s.fb := rfl
@[simp] theorem State.dropDraw_mem : (s.dropDraw).mem = s.mem := rfl
@[simp] theorem State.dropDraw_keyWait : (s.dropDraw).keyWait = s.keyWait := rfl
@[simp] theorem State.dropDraw_fault : (s.dropDraw).fault = s.fault := rfl
@[simp] theorem State.dropDraw_config : (s.dropDraw).config = s.config := rfl
@[simp] theorem State.dropDraw_status : (s.dropDraw).status = s.status := rfl
@[simp] theorem State.dropDraw_schedule : (s.dropDraw).schedule = s.schedule := rfl

/-! ### goTo -/

@[simp] theorem State.goTo_V (t : Word) : (s.goTo t).V = s.V := rfl
@[simp] theorem State.goTo_I (t : Word) : (s.goTo t).I = s.I := rfl
@[simp] theorem State.goTo_stack (t : Word) : (s.goTo t).stack = s.stack := rfl
@[simp] theorem State.goTo_sp (t : Word) : (s.goTo t).sp = s.sp := rfl
@[simp] theorem State.goTo_DT (t : Word) : (s.goTo t).DT = s.DT := rfl
@[simp] theorem State.goTo_ST (t : Word) : (s.goTo t).ST = s.ST := rfl
@[simp] theorem State.goTo_keypad (t : Word) : (s.goTo t).keypad = s.keypad := rfl
@[simp] theorem State.goTo_fb (t : Word) : (s.goTo t).fb = s.fb := rfl
@[simp] theorem State.goTo_mem (t : Word) : (s.goTo t).mem = s.mem := rfl
@[simp] theorem State.goTo_keyWait (t : Word) : (s.goTo t).keyWait = s.keyWait := rfl
@[simp] theorem State.goTo_fault (t : Word) : (s.goTo t).fault = s.fault := rfl
@[simp] theorem State.goTo_config (t : Word) : (s.goTo t).config = s.config := rfl
@[simp] theorem State.goTo_schedule (t : Word) : (s.goTo t).schedule = s.schedule := rfl
@[simp] theorem State.goTo_draws (t : Word) : (s.goTo t).draws = s.draws := rfl
@[simp] theorem State.goTo_drawCount (t : Word) : (s.goTo t).drawCount = s.drawCount := rfl

/-! ### latch -/

@[simp] theorem State.latch_V (f : Fault) : (s.latch f).V = s.V := rfl
@[simp] theorem State.latch_I (f : Fault) : (s.latch f).I = s.I := rfl
@[simp] theorem State.latch_pc (f : Fault) : (s.latch f).pc = s.pc := rfl
@[simp] theorem State.latch_stack (f : Fault) : (s.latch f).stack = s.stack := rfl
@[simp] theorem State.latch_sp (f : Fault) : (s.latch f).sp = s.sp := rfl
@[simp] theorem State.latch_DT (f : Fault) : (s.latch f).DT = s.DT := rfl
@[simp] theorem State.latch_ST (f : Fault) : (s.latch f).ST = s.ST := rfl
@[simp] theorem State.latch_keypad (f : Fault) : (s.latch f).keypad = s.keypad := rfl
@[simp] theorem State.latch_fb (f : Fault) : (s.latch f).fb = s.fb := rfl
@[simp] theorem State.latch_mem (f : Fault) : (s.latch f).mem = s.mem := rfl
@[simp] theorem State.latch_keyWait (f : Fault) : (s.latch f).keyWait = s.keyWait := rfl
@[simp] theorem State.latch_config (f : Fault) : (s.latch f).config = s.config := rfl
@[simp] theorem State.latch_schedule (f : Fault) : (s.latch f).schedule = s.schedule := rfl
@[simp] theorem State.latch_draws (f : Fault) : (s.latch f).draws = s.draws := rfl
@[simp] theorem State.latch_drawCount (f : Fault) : (s.latch f).drawCount = s.drawCount := rfl

/-! ### loadRegs -/

@[simp] theorem State.loadRegs_I (x : RegIx) : (s.loadRegs x).I = s.I := rfl
@[simp] theorem State.loadRegs_pc (x : RegIx) : (s.loadRegs x).pc = s.pc := rfl
@[simp] theorem State.loadRegs_stack (x : RegIx) : (s.loadRegs x).stack = s.stack := rfl
@[simp] theorem State.loadRegs_sp (x : RegIx) : (s.loadRegs x).sp = s.sp := rfl
@[simp] theorem State.loadRegs_DT (x : RegIx) : (s.loadRegs x).DT = s.DT := rfl
@[simp] theorem State.loadRegs_ST (x : RegIx) : (s.loadRegs x).ST = s.ST := rfl
@[simp] theorem State.loadRegs_keypad (x : RegIx) : (s.loadRegs x).keypad = s.keypad := rfl
@[simp] theorem State.loadRegs_fb (x : RegIx) : (s.loadRegs x).fb = s.fb := rfl
@[simp] theorem State.loadRegs_mem (x : RegIx) : (s.loadRegs x).mem = s.mem := rfl
@[simp] theorem State.loadRegs_keyWait (x : RegIx) : (s.loadRegs x).keyWait = s.keyWait := rfl
@[simp] theorem State.loadRegs_fault (x : RegIx) : (s.loadRegs x).fault = s.fault := rfl
@[simp] theorem State.loadRegs_config (x : RegIx) : (s.loadRegs x).config = s.config := rfl
@[simp] theorem State.loadRegs_status (x : RegIx) : (s.loadRegs x).status = s.status := rfl
@[simp] theorem State.loadRegs_schedule (x : RegIx) : (s.loadRegs x).schedule = s.schedule := rfl
@[simp] theorem State.loadRegs_draws (x : RegIx) : (s.loadRegs x).draws = s.draws := rfl
@[simp] theorem State.loadRegs_drawCount (x : RegIx) : (s.loadRegs x).drawCount = s.drawCount := rfl

/-! ### popEvent -/

@[simp] theorem State.popEvent_V : (s.popEvent).V = s.V := rfl
@[simp] theorem State.popEvent_I : (s.popEvent).I = s.I := rfl
@[simp] theorem State.popEvent_pc : (s.popEvent).pc = s.pc := rfl
@[simp] theorem State.popEvent_stack : (s.popEvent).stack = s.stack := rfl
@[simp] theorem State.popEvent_sp : (s.popEvent).sp = s.sp := rfl
@[simp] theorem State.popEvent_DT : (s.popEvent).DT = s.DT := rfl
@[simp] theorem State.popEvent_ST : (s.popEvent).ST = s.ST := rfl
@[simp] theorem State.popEvent_keypad : (s.popEvent).keypad = s.keypad := rfl
@[simp] theorem State.popEvent_fb : (s.popEvent).fb = s.fb := rfl
@[simp] theorem State.popEvent_mem : (s.popEvent).mem = s.mem := rfl
@[simp] theorem State.popEvent_keyWait : (s.popEvent).keyWait = s.keyWait := rfl
@[simp] theorem State.popEvent_fault : (s.popEvent).fault = s.fault := rfl
@[simp] theorem State.popEvent_config : (s.popEvent).config = s.config := rfl
@[simp] theorem State.popEvent_status : (s.popEvent).status = s.status := rfl
@[simp] theorem State.popEvent_draws : (s.popEvent).draws = s.draws := rfl
@[simp] theorem State.popEvent_drawCount : (s.popEvent).drawCount = s.drawCount := rfl

/-! ### tick -/

@[simp] theorem State.tick_V (e : Nat) : (s.tick e).V = s.V := rfl
@[simp] theorem State.tick_I (e : Nat) : (s.tick e).I = s.I := rfl
@[simp] theorem State.tick_pc (e : Nat) : (s.tick e).pc = s.pc := rfl
@[simp] theorem State.tick_stack (e : Nat) : (s.tick e).stack = s.stack := rfl
@[simp] theorem State.tick_sp (e : Nat) : (s.tick e).sp = s.sp := rfl
@[simp] theorem State.tick_keypad (e : Nat) : (s.tick e).keypad = s.keypad := rfl
@[simp] theorem State.tick_fb (e : Nat) : (s.tick e).fb = s.fb := rfl
@[simp] theorem State.tick_mem (e : Nat) : (s.tick e).mem = s.mem := rfl
@[simp] theorem State.tick_keyWait (e : Nat) : (s.tick e).keyWait = s.keyWait := rfl
@[simp] theorem State.tick_fault (e : Nat) : (s.tick e).fault = s.fault := rfl
@[simp] theorem State.tick_config (e : Nat) : (s.tick e).config = s.config := rfl
@[simp] theorem State.tick_status (e : Nat) : (s.tick e).status = s.status := rfl
@[simp] theorem State.tick_schedule (e : Nat) : (s.tick e).schedule = s.schedule := rfl
@[simp] theorem State.tick_draws (e : Nat) : (s.tick e).draws = s.draws := rfl
@[simp] theorem State.tick_drawCount (e : Nat) : (s.tick e).drawCount = s.drawCount := rfl

/-! ### setKey -/

@[simp] theorem State.setKey_V (k : KeyIx) (p : Bool) : (s.setKey k p).V = s.V := rfl
@[simp] theorem State.setKey_I (k : KeyIx) (p : Bool) : (s.setKey k p).I = s.I := rfl
@[simp] theorem State.setKey_pc (k : KeyIx) (p : Bool) : (s.setKey k p).pc = s.pc := rfl
@[simp] theorem State.setKey_stack (k : KeyIx) (p : Bool) : (s.setKey k p).stack = s.stack := rfl
@[simp] theorem State.setKey_sp (k : KeyIx) (p : Bool) : (s.setKey k p).sp = s.sp := rfl
@[simp] theorem State.setKey_DT (k : KeyIx) (p : Bool) : (s.setKey k p).DT = s.DT := rfl
@[simp] theorem State.setKey_ST (k : KeyIx) (p : Bool) : (s.setKey k p).ST = s.ST := rfl
@[simp] theorem State.setKey_fb (k : KeyIx) (p : Bool) : (s.setKey k p).fb = s.fb := rfl
@[simp] theorem State.setKey_mem (k : KeyIx) (p : Bool) : (s.setKey k p).mem = s.mem := rfl
@[simp] theorem State.setKey_fault (k : KeyIx) (p : Bool) : (s.setKey k p).fault = s.fault := rfl
@[simp] theorem State.setKey_config (k : KeyIx) (p : Bool) : (s.setKey k p).config = s.config := rfl
@[simp] theorem State.setKey_status (k : KeyIx) (p : Bool) : (s.setKey k p).status = s.status := rfl
@[simp] theorem State.setKey_schedule (k : KeyIx) (p : Bool) : (s.setKey k p).schedule = s.schedule := rfl
@[simp] theorem State.setKey_draws (k : KeyIx) (p : Bool) : (s.setKey k p).draws = s.draws := rfl
@[simp] theorem State.setKey_drawCount (k : KeyIx) (p : Bool) : (s.setKey k p).drawCount = s.drawCount := rfl

/-! ### The fields an update does write -/

@[simp] theorem State.setI_I (w : Word) : (s.setI w).I = w := rfl
@[simp] theorem State.goTo_pc (t : Word) : (s.goTo t).pc = t := rfl
@[simp] theorem State.goTo_status (t : Word) : (s.goTo t).status = some .completed := rfl
@[simp] theorem State.latch_fault (f : Fault) : (s.latch f).fault = some f := rfl
@[simp] theorem State.latch_status (f : Fault) : (s.latch f).status = some (.fault f) := rfl
@[simp] theorem State.store_mem (a : Nat) (bs : List Byte) : (s.store a bs).mem = s.mem.writeList a bs := rfl
@[simp] theorem State.dropDraw_draws : (s.dropDraw).draws = s.draws.tail := rfl
@[simp] theorem State.dropDraw_drawCount : (s.dropDraw).drawCount = s.drawCount + 1 := rfl
@[simp] theorem State.popEvent_schedule : (s.popEvent).schedule = s.schedule.tail := rfl
@[simp] theorem State.setKey_keypad (k : KeyIx) (p : Bool) : (s.setKey k p).keypad = s.keypad.set k.val p k.isLt := rfl

/-! ### logicFlag -/

@[simp] theorem State.logicFlag_I : (s.logicFlag).I = s.I := by
  unfold State.logicFlag; split <;> rfl
@[simp] theorem State.logicFlag_pc : (s.logicFlag).pc = s.pc := by
  unfold State.logicFlag; split <;> rfl
@[simp] theorem State.logicFlag_stack : (s.logicFlag).stack = s.stack := by
  unfold State.logicFlag; split <;> rfl
@[simp] theorem State.logicFlag_sp : (s.logicFlag).sp = s.sp := by
  unfold State.logicFlag; split <;> rfl
@[simp] theorem State.logicFlag_DT : (s.logicFlag).DT = s.DT := by
  unfold State.logicFlag; split <;> rfl
@[simp] theorem State.logicFlag_ST : (s.logicFlag).ST = s.ST := by
  unfold State.logicFlag; split <;> rfl
@[simp] theorem State.logicFlag_keypad : (s.logicFlag).keypad = s.keypad := by
  unfold State.logicFlag; split <;> rfl
@[simp] theorem State.logicFlag_fb : (s.logicFlag).fb = s.fb := by
  unfold State.logicFlag; split <;> rfl
@[simp] theorem State.logicFlag_mem : (s.logicFlag).mem = s.mem := by
  unfold State.logicFlag; split <;> rfl
@[simp] theorem State.logicFlag_keyWait : (s.logicFlag).keyWait = s.keyWait := by
  unfold State.logicFlag; split <;> rfl
@[simp] theorem State.logicFlag_fault : (s.logicFlag).fault = s.fault := by
  unfold State.logicFlag; split <;> rfl
@[simp] theorem State.logicFlag_config : (s.logicFlag).config = s.config := by
  unfold State.logicFlag; split <;> rfl
@[simp] theorem State.logicFlag_status : (s.logicFlag).status = s.status := by
  unfold State.logicFlag; split <;> rfl
@[simp] theorem State.logicFlag_schedule : (s.logicFlag).schedule = s.schedule := by
  unfold State.logicFlag; split <;> rfl
@[simp] theorem State.logicFlag_draws : (s.logicFlag).draws = s.draws := by
  unfold State.logicFlag; split <;> rfl
@[simp] theorem State.logicFlag_drawCount : (s.logicFlag).drawCount = s.drawCount := by
  unfold State.logicFlag; split <;> rfl

/-! ### indexFlag -/

@[simp] theorem State.indexFlag_I (n : Nat) : (s.indexFlag n).I = s.I := by
  unfold State.indexFlag; split <;> rfl
@[simp] theorem State.indexFlag_pc (n : Nat) : (s.indexFlag n).pc = s.pc := by
  unfold State.indexFlag; split <;> rfl
@[simp] theorem State.indexFlag_stack (n : Nat) : (s.indexFlag n).stack = s.stack := by
  unfold State.indexFlag; split <;> rfl
@[simp] theorem State.indexFlag_sp (n : Nat) : (s.indexFlag n).sp = s.sp := by
  unfold State.indexFlag; split <;> rfl
@[simp] theorem State.indexFlag_DT (n : Nat) : (s.indexFlag n).DT = s.DT := by
  unfold State.indexFlag; split <;> rfl
@[simp] theorem State.indexFlag_ST (n : Nat) : (s.indexFlag n).ST = s.ST := by
  unfold State.indexFlag; split <;> rfl
@[simp] theorem State.indexFlag_keypad (n : Nat) : (s.indexFlag n).keypad = s.keypad := by
  unfold State.indexFlag; split <;> rfl
@[simp] theorem State.indexFlag_fb (n : Nat) : (s.indexFlag n).fb = s.fb := by
  unfold State.indexFlag; split <;> rfl
@[simp] theorem State.indexFlag_mem (n : Nat) : (s.indexFlag n).mem = s.mem := by
  unfold State.indexFlag; split <;> rfl
@[simp] theorem State.indexFlag_keyWait (n : Nat) : (s.indexFlag n).keyWait = s.keyWait := by
  unfold State.indexFlag; split <;> rfl
@[simp] theorem State.indexFlag_fault (n : Nat) : (s.indexFlag n).fault = s.fault := by
  unfold State.indexFlag; split <;> rfl
@[simp] theorem State.indexFlag_config (n : Nat) : (s.indexFlag n).config = s.config := by
  unfold State.indexFlag; split <;> rfl
@[simp] theorem State.indexFlag_status (n : Nat) : (s.indexFlag n).status = s.status := by
  unfold State.indexFlag; split <;> rfl
@[simp] theorem State.indexFlag_schedule (n : Nat) : (s.indexFlag n).schedule = s.schedule := by
  unfold State.indexFlag; split <;> rfl
@[simp] theorem State.indexFlag_draws (n : Nat) : (s.indexFlag n).draws = s.draws := by
  unfold State.indexFlag; split <;> rfl
@[simp] theorem State.indexFlag_drawCount (n : Nat) : (s.indexFlag n).drawCount = s.drawCount := by
  unfold State.indexFlag; split <;> rfl

/-! ### bumpI -/

@[simp] theorem State.bumpI_V (x : RegIx) : (s.bumpI x).V = s.V := by
  unfold State.bumpI; split <;> rfl
@[simp] theorem State.bumpI_pc (x : RegIx) : (s.bumpI x).pc = s.pc := by
  unfold State.bumpI; split <;> rfl
@[simp] theorem State.bumpI_stack (x : RegIx) : (s.bumpI x).stack = s.stack := by
  unfold State.bumpI; split <;> rfl
@[simp] theorem State.bumpI_sp (x : RegIx) : (s.bumpI x).sp = s.sp := by
  unfold State.bumpI; split <;> rfl
@[simp] theorem State.bumpI_DT (x : RegIx) : (s.bumpI x).DT = s.DT := by
  unfold State.bumpI; split <;> rfl
@[simp] theorem State.bumpI_ST (x : RegIx) : (s.bumpI x).ST = s.ST := by
  unfold State.bumpI; split <;> rfl
@[simp] theorem State.bumpI_keypad (x : RegIx) : (s.bumpI x).keypad = s.keypad := by
  unfold State.bumpI; split <;> rfl
@[simp] theorem State.bumpI_fb (x : RegIx) : (s.bumpI x).fb = s.fb := by
  unfold State.bumpI; split <;> rfl
@[simp] theorem State.bumpI_mem (x : RegIx) : (s.bumpI x).mem = s.mem := by
  unfold State.bumpI; split <;> rfl
@[simp] theorem State.bumpI_keyWait (x : RegIx) : (s.bumpI x).keyWait = s.keyWait := by
  unfold State.bumpI; split <;> rfl
@[simp] theorem State.bumpI_fault (x : RegIx) : (s.bumpI x).fault = s.fault := by
  unfold State.bumpI; split <;> rfl
@[simp] theorem State.bumpI_config (x : RegIx) : (s.bumpI x).config = s.config := by
  unfold State.bumpI; split <;> rfl
@[simp] theorem State.bumpI_status (x : RegIx) : (s.bumpI x).status = s.status := by
  unfold State.bumpI; split <;> rfl
@[simp] theorem State.bumpI_schedule (x : RegIx) : (s.bumpI x).schedule = s.schedule := by
  unfold State.bumpI; split <;> rfl
@[simp] theorem State.bumpI_draws (x : RegIx) : (s.bumpI x).draws = s.draws := by
  unfold State.bumpI; split <;> rfl
@[simp] theorem State.bumpI_drawCount (x : RegIx) : (s.bumpI x).drawCount = s.drawCount := by
  unfold State.bumpI; split <;> rfl

end Sys2Proof.Machine
end

