-- ==== Sys2Proof/Laws/Agents.lean ====
section
/-! SUPPORT. The laws of the agents' actions. -/

namespace Sys2Proof.Machine

/-- A timer falls by `k` and stops at 0 (R180). -/
@[simp] theorem toNat_timerDown (t : Byte) (k : Nat) : (timerDown t k).toNat = t.toNat - k := by
  have := t.isLt
  unfold timerDown
  split
  · simp; omega
  · simp; omega

theorem timerDown_timerDown (t : Byte) (j k : Nat) :
    timerDown (timerDown t j) k = timerDown t (j + k) := by
  apply BitVec.eq_of_toNat_eq
  simp; omega

@[simp] theorem State.DT_tick (s : State) (e : Nat) : (s.tick e).DT = timerDown s.DT (e / 16667) := rfl

@[simp] theorem State.ST_tick (s : State) (e : Nat) : (s.tick e).ST = timerDown s.ST (e / 16667) := rfl

/-- What a load can do (R200, R201). -/
theorem load_eq_next {image : List Byte} {s t : State} :
    load image s = .next t ↔ image.length ≤ 3584 ∧ s.loaded image = t := by
  unfold load
  split
  · simp; omega
  · simp; omega

/-- The memory after a load: the image from 0x200, the reset contents elsewhere (R200). -/
theorem State.read_loaded (s : State) (image : List Byte) (a : Nat) :
    (s.loaded image).mem.read a =
      if 0x200 ≤ a ∧ a < 0x200 + image.length then image.getD (a - 0x200) 0x00#8 else resetByte a := by
  simp [State.loaded, State.reset, Memory.read_writeList, Memory.read]

/-- A memory that a load leaves has the canonical form. -/
theorem State.wf_loaded (s : State) {image : List Byte} (h : image.length ≤ 3584) :
    (s.loaded image).mem.wf :=
  Memory.wf_writeList Memory.wf_nil (by omega)

end Sys2Proof.Machine
end

