-- ==== Sys2Proof/Laws/Registers.lean ====
section
/-! SUPPORT. The laws of the registers, the flag, the stack and the draws. -/

namespace Sys2Proof.Machine

/-- `V[r] <- v` changes `V[r]` and no other register. -/
@[simp] theorem State.reg_setReg (s : State) (r q : RegIx) (v : Byte) :
    (s.setReg r v).reg q = if q = r then v else s.reg q := by
  unfold State.reg State.setReg
  by_cases h : q = r
  · subst h; simp
  · have hv : r.val ≠ q.val := fun e => h (Fin.ext e.symm)
    simp [h, hv]

/-- A flag write changes register 15 and no other. -/
@[simp] theorem State.reg_setFlag (s : State) (c : Bool) (q : RegIx) :
    (s.setFlag c).reg q = if q = 15 then (if c then 0x01#8 else 0x00#8) else s.reg q := by
  simp [State.setFlag, flagReg]

@[simp] theorem State.reg_goTo (s : State) (t : Word) (q : RegIx) : (s.goTo t).reg q = s.reg q := rfl

@[simp] theorem State.reg_latch (s : State) (f : Fault) (q : RegIx) : (s.latch f).reg q = s.reg q := rfl

@[simp] theorem State.reg_setI (s : State) (w : Word) (q : RegIx) : (s.setI w).reg q = s.reg q := rfl

@[simp] theorem State.reg_dropDraw (s : State) (q : RegIx) : s.dropDraw.reg q = s.reg q := rfl

@[simp] theorem State.reg_logicFlag (s : State) (q : RegIx) :
    s.logicFlag.reg q = if q = 15 ∧ s.config.logicResetsVF = true then 0x00#8 else s.reg q := by
  unfold State.logicFlag
  split <;> simp_all

@[simp] theorem State.reg_indexFlag (s : State) (n : Nat) (q : RegIx) :
    (s.indexFlag n).reg q =
      if q = 15 ∧ s.config.addISetsVF = true then (if 0x0FFF < n then 0x01#8 else 0x00#8)
      else s.reg q := by
  unfold State.indexFlag
  split <;> simp_all [indexOutOfRange]

/-- A register load fills V[0] .. V[x] from memory and leaves the others. -/
@[simp] theorem State.reg_loadRegs (s : State) (x q : RegIx) :
    (s.loadRegs x).reg q = if q ≤ x then s.mem.read (s.I.toNat + q.val) else s.reg q := by
  simp [State.reg, State.loadRegs]

/-- What a push can do: there is room, the entry at `sp` is written, and `sp` rises by one. -/
theorem State.push_eq_some {s s' : State} {a : Word} (h : s.push a = some s') :
    ∃ hs : s.sp.val < 16,
      s' = { s with stack := s.stack.set s.sp.val a hs, sp := ⟨s.sp.val + 1, by omega⟩ } := by
  unfold State.push at h
  split at h
  · next hs => exact ⟨hs, by simpa using h.symm⟩
  · simp at h

theorem State.push_eq_none {s : State} {a : Word} : s.push a = none ↔ s.sp.val = 16 := by
  unfold State.push
  split <;> simp <;> omega

/-- What a pop can do: the stack is not empty, `sp` falls by one, and the entry stays in place. -/
theorem State.pop_eq_some {s s' : State} {a : Word} (h : s.pop = some (a, s')) :
    ∃ hs : 0 < s.sp.val,
      a = s.stack[s.sp.val - 1]'(by omega) ∧ s' = { s with sp := ⟨s.sp.val - 1, by omega⟩ } := by
  unfold State.pop at h
  split at h
  · next hs =>
    simp only [Option.some.injEq, Prod.mk.injEq] at h
    exact ⟨hs, h.1.symm, h.2.symm⟩
  · simp at h

theorem State.pop_eq_none {s : State} : s.pop = none ↔ s.sp.val = 0 := by
  unfold State.pop
  split <;> simp <;> omega

/-- A supplied byte is the draw, whatever it is. -/
@[simp] theorem State.draw_of_supplied {s : State} {b : Byte} {bs : List Byte} (h : s.draws = b :: bs) :
    s.draw = b := by
  simp [State.draw, h]

end Sys2Proof.Machine
end

