-- ==== Sys2Proof/Laws/Ends.lean ====
section
/-! SUPPORT. The ways an instruction ends, each said once: what the step answers, and what a check made
before the writes can do. -/

namespace Sys2Proof.Machine

@[simp] theorem raise_eq_next {f : Fault} {s t : State} : raise f s = .next t ↔ s.latch f = t := by
  simp [raise]

@[simp] theorem epilogue_eq_next {s t : State} :
    epilogue s = .next t ↔ s.goTo (s.pc + 2#16) = t := by
  simp [epilogue]

@[simp] theorem skipIf_eq_next {c : Bool} {s t : State} :
    skipIf c s = .next t ↔ s.goTo (if c then s.pc + 4#16 else s.pc + 2#16) = t := by
  simp [skipIf]

@[simp] theorem block_eq_next {s t : State} :
    block s = .next t ↔ { s with status := some .needsKey } = t := by
  simp [block]

@[simp] theorem reportLatched_eq_next {f : Fault} {s t : State} :
    reportLatched f s = .next t ↔ { s with status := some (.fault f) } = t := by
  simp [reportLatched]

/-- The target check either latches `MisalignedTarget`, on an odd target, or goes on. -/
theorem checkTarget_cases {op a : Word} {s t : State} {k : Result}
    (h : checkTarget op a s k = .next t) :
    (a.toNat % 2 = 1 ∧ t = s.latch (.misalignedTarget s.pc (some op) a)) ∨
      (a.toNat % 2 = 0 ∧ k = .next t) := by
  unfold checkTarget at h
  split at h
  · next ho => exact .inl ⟨ho, (raise_eq_next.mp h).symm⟩
  · exact .inr ⟨by omega, h⟩

theorem checkTarget_even {op a : Word} {s : State} {k : Result} (h : a.toNat % 2 = 0) :
    checkTarget op a s k = k := by
  simp [checkTarget, h]

/-- The range check either latches `MemOutOfRange`, when `I + last` passes 0xFFF, or goes on. -/
theorem checkRange_cases {op : Word} {n : Nat} {s t : State} {k : Result}
    (h : checkRange op n s k = .next t) :
    (0xFFF < s.I.toNat + n ∧ t = s.latch (.memOutOfRange s.pc op (max s.I.toNat 0x1000))) ∨
      (s.I.toNat + n ≤ 0xFFF ∧ k = .next t) := by
  unfold checkRange at h
  split at h
  · next ho => exact .inl ⟨ho, (raise_eq_next.mp h).symm⟩
  · exact .inr ⟨by omega, h⟩

theorem checkRange_within {op : Word} {n : Nat} {s : State} {k : Result}
    (h : s.I.toNat + n ≤ 0xFFF) : checkRange op n s k = k := by
  unfold checkRange
  rw [if_neg (by omega)]

/-- `Fetch(pc)` returns a word exactly when `pc` is even and at most 0xFFE (R56). -/
theorem State.fetch_eq_ok {s : State} {w : Word} :
    s.fetch = .ok w ↔ s.pc.toNat % 2 = 0 ∧ s.pc.toNat ≤ 0xFFE ∧ s.opcodeAt s.pc.toNat = w := by
  unfold State.fetch
  split
  · simp; omega
  · next h =>
    have h0 : s.pc.toNat % 2 = 0 := by omega
    split
    · simp; omega
    · next h2 => simp [h0, Nat.le_of_not_lt h2]

/-- The two faults of `Fetch(pc)`, in their order (R56, R178). -/
theorem State.fetch_eq_error {s : State} {f : Fault} :
    s.fetch = .error f ↔
      (s.pc.toNat % 2 = 1 ∧ f = .misalignedTarget s.pc none s.pc) ∨
        (s.pc.toNat % 2 = 0 ∧ 0xFFE < s.pc.toNat ∧ f = .fetchOutOfRange s.pc) := by
  unfold State.fetch
  split
  · next h => simp [h, eq_comm]
  · next h =>
    have h0 : s.pc.toNat % 2 = 0 := by omega
    split
    · next h2 => simp [h0, h2, eq_comm]
    · next h2 => simp [h0, h2]

/-- What the driver's step can do, each end with its reason (R91). -/
theorem driverStep_cases {s t : State} (h : driverStep s = .next t) :
    (∃ f, s.fault = some f ∧ t = { s with status := some (.fault f) }) ∨
    (s.fault = none ∧ ∃ f, s.fetch = .error f ∧ t = s.latch f) ∨
    (s.fault = none ∧ ∃ op, s.fetch = .ok op ∧ decode op = none ∧ t = s.latch (.decodeError s.pc op)) ∨
    (s.fault = none ∧ ∃ op i, s.fetch = .ok op ∧ decode op = some i ∧ exec i s = .next t) := by
  unfold driverStep at h
  rcases Option.eq_none_or_eq_some s.fault with hf | ⟨f, hf⟩
  · rw [hf] at h
    cases hw : s.fetch with
    | error f => exact .inr (.inl ⟨hf, f, rfl, (raise_eq_next.mp (by simpa [hw] using h)).symm⟩)
    | ok op =>
      cases hd : decode op with
      | none =>
        exact .inr (.inr (.inl ⟨hf, op, rfl, hd, (raise_eq_next.mp (by simpa [hw, hd] using h)).symm⟩))
      | some i => exact .inr (.inr (.inr ⟨hf, op, i, rfl, hd, by simpa [hw, hd] using h⟩))
  · rw [hf] at h
    exact .inl ⟨f, hf, (reportLatched_eq_next.mp h).symm⟩

/-- What a step of the machine can do: one action of one agent. -/
theorem step_cases {s t : State} (h : step s = .next t) :
    (s.nextEvent = .step ∧ driverStep s.popEvent = .next t) ∨
    (∃ e, s.nextEvent = .tick e ∧ t = s.popEvent.tick e) ∨
    (∃ k p, s.nextEvent = .setKey k p ∧ t = s.popEvent.setKey k p) ∨
    (∃ image, s.nextEvent = .reset image ∧ image.length ≤ 3584 ∧ t = s.popEvent.loaded image) := by
  unfold step perform at h
  cases he : s.nextEvent with
  | step => exact .inl ⟨rfl, by simpa [he] using h⟩
  | tick e => exact .inr (.inl ⟨e, rfl, by simpa [he] using h.symm⟩)
  | setKey k p => exact .inr (.inr (.inl ⟨k, p, rfl, by simpa [he] using h.symm⟩))
  | reset image =>
    refine .inr (.inr (.inr ⟨image, rfl, ?_⟩))
    simp only [he, load] at h
    split at h
    · simp at h
    · exact ⟨by omega, by simpa using h.symm⟩

end Sys2Proof.Machine
end

