-- ==== Sys2Proof/Laws/Completion.lean ====
section
/-! SUPPORT. The terms of the statements and the ends of an instruction. -/

namespace Sys2Proof.Machine

/-- An instruction that ends with the default epilogue after an update of registers alone completes with
the registers of that update. -/
theorem completesWithRegs_of_epilogue {i : Instr} {s t : State} {v : RegIx → Byte}
    (h : exec i s = epilogue t) (ht : t = { s with V := t.V }) (hv : ∀ r, t.reg r = v r) :
    CompletesWithRegs i s v := by
  refine ⟨t.V, ?_, hv⟩
  rw [h, epilogue, ht]
  rfl

theorem latches_of_raise {i : Instr} {s : State} {f : Fault} (h : exec i s = raise f s) :
    Latches i s f := h

theorem State.logicFlag_eq (s : State) : s.logicFlag = { s with V := s.logicFlag.V } := by
  unfold State.logicFlag; split <;> rfl

theorem State.indexFlag_eq (s : State) (n : Nat) :
    s.indexFlag n = { s with V := (s.indexFlag n).V } := by
  unfold State.indexFlag; split <;> rfl

theorem State.bumpI_eq (s : State) (x : RegIx) :
    s.bumpI x = { s with
      I := if s.config.loadstoreIncrementsI = true then BitVec.ofNat 16 (s.I.toNat + x.val + 1)
        else s.I } := by
  unfold State.bumpI; split <;> rfl

theorem State.popEvent_of_idle {s : State} (h : s.schedule = []) : s.popEvent = s := by
  cases s; simp_all [State.popEvent]

/-- With no action listed, a step is the driver's `Step` (log 3). -/
theorem step_of_idle {s : State} (h : s.schedule = []) : step s = driverStep s := by
  have hn : s.nextEvent = .step := by simp [State.nextEvent, h]
  rw [step, hn, State.popEvent_of_idle h]
  rfl

theorem step_of_driverNext {s : State} (h : s.driverNext) : step s = driverStep s.popEvent := by
  rw [step, show s.nextEvent = .step from h]
  rfl

/-- Taking an action off the schedule does not move the next fetch. -/
@[simp] theorem State.fetch_popEvent (s : State) : s.popEvent.fetch = s.fetch := rfl

@[simp] theorem State.fetchedWord_popEvent (s : State) : s.popEvent.fetchedWord = s.fetchedWord := rfl

/-- A `Step` that fetches `i` is the rule of `i` (R91). -/
theorem driverStep_of_fetches {s : State} {i : Instr} (h : s.fetches i) : driverStep s = exec i s := by
  have ho : s.fetch = .ok s.fetchedWord := State.fetch_eq_ok.mpr ⟨h.2.1.1, h.2.1.2, rfl⟩
  simp [driverStep, show s.fault = none from h.1, ho, h.2.2]

end Sys2Proof.Machine
end

