-- ==== Sys2Proof/Laws/Decode.lean ====
section
/-! SUPPORT. The numeric value of a field, of an encoded word and of two bytes, and from these: the fields
of an encoded word are the operands it was made of. -/

namespace Sys2Proof

/-! ## Fields as numbers -/

theorem toNat_nibble (w : Word) (lo : Nat) : (nibble w lo).toNat = w.toNat / 2 ^ lo % 16 := by
  simp [nibble, Nat.shiftRight_eq_div_pow]

theorem toNat_lowByte (w : Word) : (lowByte w).toNat = w.toNat % 256 := by
  simp [lowByte]

theorem toNat_highByte (w : Word) : (highByte w).toNat = w.toNat / 256 := by
  have := w.isLt
  simp [highByte, Nat.shiftRight_eq_div_pow]; omega

theorem toNat_fieldNNN (w : Word) : (fieldNNN w).toNat = w.toNat % 4096 := by
  simp [fieldNNN]

theorem val_fieldX (w : Word) : (fieldX w).val = w.toNat / 256 % 16 := toNat_nibble w 8

theorem val_fieldY (w : Word) : (fieldY w).val = w.toNat / 16 % 16 := toNat_nibble w 4

theorem val_fieldN (w : Word) : (fieldN w).val = w.toNat % 16 :=
  (toNat_nibble w 0).trans (by simp)

@[simp] theorem toNat_nibbleBits (r : Fin 16) : (nibbleBits r).toNat = r.val := rfl

/-! ## Words as numbers -/

theorem toNat_append_add {n m : Nat} (a : BitVec n) (b : BitVec m) :
    (a ++ b).toNat = a.toNat * 2 ^ m + b.toNat := by
  rw [BitVec.toNat_append, ← Nat.shiftLeft_add_eq_or_of_lt b.isLt, Nat.shiftLeft_eq]

theorem toNat_wordOfBytes (hi lo : Byte) : (wordOfBytes hi lo).toNat = hi.toNat * 256 + lo.toNat :=
  toNat_append_add hi lo

theorem toNat_formatNNN (f : BitVec 4) (a : Addr) : (formatNNN f a).toNat = f.toNat * 4096 + a.toNat :=
  toNat_append_add f a

theorem toNat_formatXKK (f : BitVec 4) (x : RegIx) (kk : Byte) :
    (formatXKK f x kk).toNat = f.toNat * 4096 + x.val * 256 + kk.toNat := by
  have h := toNat_append_add (f ++ nibbleBits x) kk
  rw [toNat_append_add f (nibbleBits x), toNat_nibbleBits] at h
  refine h.trans ?_
  omega

theorem toNat_formatXYN (f : BitVec 4) (x y : RegIx) (n : BitVec 4) :
    (formatXYN f x y n).toNat = f.toNat * 4096 + x.val * 256 + y.val * 16 + n.toNat := by
  have h := toNat_append_add (f ++ nibbleBits x ++ nibbleBits y) n
  rw [toNat_append_add (f ++ nibbleBits x) (nibbleBits y), toNat_append_add f (nibbleBits x),
    toNat_nibbleBits, toNat_nibbleBits] at h
  refine h.trans ?_
  omega

/-- A word split into its two bytes and put together again is the word (R53). -/
@[simp] theorem wordOfBytes_high_low (w : Word) : wordOfBytes (highByte w) (lowByte w) = w := by
  apply BitVec.eq_of_toNat_eq
  rw [toNat_wordOfBytes, toNat_highByte, toNat_lowByte]
  omega

/-! ## The fields of an encoded word -/

section
variable (f n : BitVec 4) (x y : RegIx) (kk : Byte) (a : Addr)

@[simp] theorem fieldFam_formatNNN : fieldFam (formatNNN f a) = f := by
  apply BitVec.eq_of_toNat_eq
  have := f.isLt; have := a.isLt
  rw [fieldFam, toNat_nibble, toNat_formatNNN]; omega

@[simp] theorem fieldNNN_formatNNN : fieldNNN (formatNNN f a) = a := by
  apply BitVec.eq_of_toNat_eq
  have := a.isLt
  rw [toNat_fieldNNN, toNat_formatNNN]; omega

@[simp] theorem fieldFam_formatXKK : fieldFam (formatXKK f x kk) = f := by
  apply BitVec.eq_of_toNat_eq
  have := f.isLt; have := x.isLt; have := kk.isLt
  rw [fieldFam, toNat_nibble, toNat_formatXKK]; omega

@[simp] theorem fieldX_formatXKK : fieldX (formatXKK f x kk) = x := by
  apply Fin.ext
  have := f.isLt; have := x.isLt; have := kk.isLt
  rw [val_fieldX, toNat_formatXKK]; omega

@[simp] theorem lowByte_formatXKK : lowByte (formatXKK f x kk) = kk := by
  apply BitVec.eq_of_toNat_eq
  have := kk.isLt
  rw [toNat_lowByte, toNat_formatXKK]; omega

@[simp] theorem fieldKK_formatXKK : fieldKK (formatXKK f x kk) = kk := lowByte_formatXKK f x kk

@[simp] theorem fieldFam_formatXYN : fieldFam (formatXYN f x y n) = f := by
  apply BitVec.eq_of_toNat_eq
  have := f.isLt; have := x.isLt; have := y.isLt; have := n.isLt
  rw [fieldFam, toNat_nibble, toNat_formatXYN]; omega

@[simp] theorem fieldX_formatXYN : fieldX (formatXYN f x y n) = x := by
  apply Fin.ext
  have := f.isLt; have := x.isLt; have := y.isLt; have := n.isLt
  rw [val_fieldX, toNat_formatXYN]; omega

@[simp] theorem fieldY_formatXYN : fieldY (formatXYN f x y n) = y := by
  apply Fin.ext
  have := f.isLt; have := x.isLt; have := y.isLt; have := n.isLt
  rw [val_fieldY, toNat_formatXYN]; omega

@[simp] theorem nibble_formatXYN : nibble (formatXYN f x y n) 0 = n := by
  apply BitVec.eq_of_toNat_eq
  have := n.isLt
  rw [toNat_nibble, toNat_formatXYN]; omega

@[simp] theorem fieldN_formatXYN (r : RowCount) : fieldN (formatXYN f x y (nibbleBits r)) = r := by
  apply Fin.ext
  have := r.isLt
  rw [val_fieldN, toNat_formatXYN, toNat_nibbleBits]; omega

end

/-- An encoded word of a family other than 0 is neither literal, so the decoder goes by its family. -/
theorem decode_of_fam {w : Word} (h : fieldFam w ≠ 0x0#4) : w ≠ 0x00E0#16 ∧ w ≠ 0x00EE#16 := by
  constructor <;> (rintro rfl; exact h (by decide))

end Sys2Proof
end

