-- ==== Sys2Proof/Laws/Operands.lean ====
section
/-! SUPPORT. The operand forms as numbers. -/

namespace Sys2Proof.Machine

theorem word_eq_ofNat {w : Word} {n : Nat} (h : w.toNat = n) : w = BitVec.ofNat 16 n := by
  subst h; simp

@[simp] theorem toNat_addrWord (nnn : Addr) : (addrWord nnn).toNat = nnn.toNat := by
  have := nnn.isLt
  simp [addrWord]; omega

theorem addrWord_eq_ofNat (nnn : Addr) : addrWord nnn = BitVec.ofNat 16 nnn.toNat :=
  word_eq_ofNat (toNat_addrWord nnn)

/-- The target of `JP_reg0` does not wrap: it is the exact sum, at most 0x10FE (R114). -/
@[simp] theorem toNat_offsetTarget (nnn : Addr) (s : State) :
    (offsetTarget nnn s).toNat = nnn.toNat + (s.reg 0).toNat := by
  have := nnn.isLt
  have := (s.reg 0).isLt
  simp [offsetTarget, addrWord, byteWord]; omega

@[simp] theorem val_lowNibble (a : Byte) : (lowNibble a).val = a.toNat % 16 := by
  have h : (a.extractLsb' 0 4).toNat = a.toNat % 16 := by simp
  exact h

theorem length_regsUpTo (s : State) (x : RegIx) : (s.regsUpTo x).length = x.val + 1 := by
  simp [State.regsUpTo]

/-- The k-th byte of a register dump is V[k] (R145). -/
theorem getD_regsUpTo (s : State) {x k : RegIx} (h : k ≤ x) :
    (s.regsUpTo x).getD k.val 0x00#8 = s.reg k := by
  have h1 : k.val < x.val + 1 := Nat.lt_succ_of_le h
  have h2 : k.val < 16 := k.isLt
  simp [State.regsUpTo, State.reg, List.getD, h1]

/-- The word at an address as a number: the byte at the lower address counts 256 (R53). -/
theorem opcodeAt_eq_ofNat (s : State) (a : Nat) :
    s.opcodeAt a = BitVec.ofNat 16 ((s.mem.read a).toNat * 256 + (s.mem.read (a + 1)).toNat) :=
  word_eq_ofNat (toNat_wordOfBytes _ _)

end Sys2Proof.Machine
end

