-- ==== Sys2Proof/Laws/PerInstr.lean ====
section
/-! SUPPORT. The family EncodingRow: every encoded instruction, well formed or not, is covered by the row
of the opcode map (R74) that bears its mnemonic. One lemma per constructor. -/

namespace Sys2Proof

/-! ## A row's mask on an encoded word -/

theorem and_nibble_ones (f : BitVec 4) : f &&& 0xF#4 = f := BitVec.and_allOnes

theorem and_byte_ones (kk : Byte) : kk &&& 0xFF#8 = kk := BitVec.and_allOnes

theorem formatNNN_fam (f : BitVec 4) (a : Addr) : formatNNN f a &&& 0xF000#16 = formatNNN f 0#12 := by
  have h : (0xF000#16 : Word) = 0xF#4 ++ 0x000#12 := by decide
  rw [h, formatNNN, formatNNN, BitVec.and_append]
  simp [and_nibble_ones]

theorem formatXKK_fam (f : BitVec 4) (x : RegIx) (kk : Byte) :
    formatXKK f x kk &&& 0xF000#16 = formatXKK f 0 0#8 := by
  have h : (0xF000#16 : Word) = 0xF#4 ++ 0x0#4 ++ 0x00#8 := by decide
  rw [h, formatXKK, formatXKK, BitVec.and_append, BitVec.and_append]
  simp [nibbleBits, and_nibble_ones]

theorem formatXKK_low (f : BitVec 4) (x : RegIx) (kk : Byte) :
    formatXKK f x kk &&& 0xF0FF#16 = formatXKK f 0 kk := by
  have h : (0xF0FF#16 : Word) = 0xF#4 ++ 0x0#4 ++ 0xFF#8 := by decide
  rw [h, formatXKK, formatXKK, BitVec.and_append, BitVec.and_append]
  simp [nibbleBits, and_nibble_ones, and_byte_ones]

theorem formatXYN_fam (f : BitVec 4) (x y : RegIx) (n : BitVec 4) :
    formatXYN f x y n &&& 0xF000#16 = formatXYN f 0 0 0#4 := by
  have h : (0xF000#16 : Word) = 0xF#4 ++ 0x0#4 ++ 0x0#4 ++ 0x0#4 := by decide
  rw [h, formatXYN, formatXYN, BitVec.and_append, BitVec.and_append, BitVec.and_append]
  simp [nibbleBits, and_nibble_ones]

theorem formatXYN_low (f : BitVec 4) (x y : RegIx) (n : BitVec 4) :
    formatXYN f x y n &&& 0xF00F#16 = formatXYN f 0 0 n := by
  have h : (0xF00F#16 : Word) = 0xF#4 ++ 0x0#4 ++ 0x0#4 ++ 0xF#4 := by decide
  rw [h, formatXYN, formatXYN, BitVec.and_append, BitVec.and_append, BitVec.and_append]
  simp [nibbleBits, and_nibble_ones]

/-! ## The family -/

/-- The encoded word of `i` is covered by the row of the opcode map that bears its mnemonic. -/
def Laws.EncodingRow.Statement (i : Instr) : Prop :=
  ∃ row ∈ opcodeTable, row.mnemonic = i.mnemonic ∧ encode i &&& row.mask = row.value

theorem Laws.EncodingRow.cls : Laws.EncodingRow.Statement (.cls) :=
  ⟨⟨"CLS", 0x00E0#16, 0xFFFF#16⟩, by decide, rfl, by decide⟩

theorem Laws.EncodingRow.ret : Laws.EncodingRow.Statement (.ret) :=
  ⟨⟨"RET", 0x00EE#16, 0xFFFF#16⟩, by decide, rfl, by decide⟩

theorem Laws.EncodingRow.sys (a : Addr) : Laws.EncodingRow.Statement (.sys a) :=
  ⟨⟨"SYS", 0x0000#16, 0xF000#16⟩, by decide, rfl, formatNNN_fam _ _⟩

theorem Laws.EncodingRow.jp (a : Addr) : Laws.EncodingRow.Statement (.jp a) :=
  ⟨⟨"JP", 0x1000#16, 0xF000#16⟩, by decide, rfl, formatNNN_fam _ _⟩

theorem Laws.EncodingRow.call (a : Addr) : Laws.EncodingRow.Statement (.call a) :=
  ⟨⟨"CALL", 0x2000#16, 0xF000#16⟩, by decide, rfl, formatNNN_fam _ _⟩

theorem Laws.EncodingRow.seRegByte (x : RegIx) (kk : Byte) : Laws.EncodingRow.Statement (.seRegByte x kk) :=
  ⟨⟨"SE_reg_byte", 0x3000#16, 0xF000#16⟩, by decide, rfl, formatXKK_fam _ _ _⟩

theorem Laws.EncodingRow.sneRegByte (x : RegIx) (kk : Byte) : Laws.EncodingRow.Statement (.sneRegByte x kk) :=
  ⟨⟨"SNE_reg_byte", 0x4000#16, 0xF000#16⟩, by decide, rfl, formatXKK_fam _ _ _⟩

theorem Laws.EncodingRow.seRegReg (x y : RegIx) : Laws.EncodingRow.Statement (.seRegReg x y) :=
  ⟨⟨"SE_reg_reg", 0x5000#16, 0xF00F#16⟩, by decide, rfl, formatXYN_low _ _ _ _⟩

theorem Laws.EncodingRow.ldRegByte (x : RegIx) (kk : Byte) : Laws.EncodingRow.Statement (.ldRegByte x kk) :=
  ⟨⟨"LD_reg_byte", 0x6000#16, 0xF000#16⟩, by decide, rfl, formatXKK_fam _ _ _⟩

theorem Laws.EncodingRow.addRegByte (x : RegIx) (kk : Byte) : Laws.EncodingRow.Statement (.addRegByte x kk) :=
  ⟨⟨"ADD_reg_byte", 0x7000#16, 0xF000#16⟩, by decide, rfl, formatXKK_fam _ _ _⟩

theorem Laws.EncodingRow.ldRegReg (x y : RegIx) : Laws.EncodingRow.Statement (.ldRegReg x y) :=
  ⟨⟨"LD_reg_reg", 0x8000#16, 0xF00F#16⟩, by decide, rfl, formatXYN_low _ _ _ _⟩

theorem Laws.EncodingRow.or (x y : RegIx) : Laws.EncodingRow.Statement (.or x y) :=
  ⟨⟨"OR", 0x8001#16, 0xF00F#16⟩, by decide, rfl, formatXYN_low _ _ _ _⟩

theorem Laws.EncodingRow.and (x y : RegIx) : Laws.EncodingRow.Statement (.and x y) :=
  ⟨⟨"AND", 0x8002#16, 0xF00F#16⟩, by decide, rfl, formatXYN_low _ _ _ _⟩

theorem Laws.EncodingRow.xor (x y : RegIx) : Laws.EncodingRow.Statement (.xor x y) :=
  ⟨⟨"XOR", 0x8003#16, 0xF00F#16⟩, by decide, rfl, formatXYN_low _ _ _ _⟩

theorem Laws.EncodingRow.add (x y : RegIx) : Laws.EncodingRow.Statement (.add x y) :=
  ⟨⟨"ADD", 0x8004#16, 0xF00F#16⟩, by decide, rfl, formatXYN_low _ _ _ _⟩

theorem Laws.EncodingRow.sub (x y : RegIx) : Laws.EncodingRow.Statement (.sub x y) :=
  ⟨⟨"SUB", 0x8005#16, 0xF00F#16⟩, by decide, rfl, formatXYN_low _ _ _ _⟩

theorem Laws.EncodingRow.shr (x y : RegIx) : Laws.EncodingRow.Statement (.shr x y) :=
  ⟨⟨"SHR", 0x8006#16, 0xF00F#16⟩, by decide, rfl, formatXYN_low _ _ _ _⟩

theorem Laws.EncodingRow.subn (x y : RegIx) : Laws.EncodingRow.Statement (.subn x y) :=
  ⟨⟨"SUBN", 0x8007#16, 0xF00F#16⟩, by decide, rfl, formatXYN_low _ _ _ _⟩

theorem Laws.EncodingRow.shl (x y : RegIx) : Laws.EncodingRow.Statement (.shl x y) :=
  ⟨⟨"SHL", 0x800E#16, 0xF00F#16⟩, by decide, rfl, formatXYN_low _ _ _ _⟩

theorem Laws.EncodingRow.sneRegReg (x y : RegIx) : Laws.EncodingRow.Statement (.sneRegReg x y) :=
  ⟨⟨"SNE_reg_reg", 0x9000#16, 0xF00F#16⟩, by decide, rfl, formatXYN_low _ _ _ _⟩

theorem Laws.EncodingRow.ldIAddr (a : Addr) : Laws.EncodingRow.Statement (.ldIAddr a) :=
  ⟨⟨"LD_I_addr", 0xA000#16, 0xF000#16⟩, by decide, rfl, formatNNN_fam _ _⟩

theorem Laws.EncodingRow.jpReg0 (a : Addr) : Laws.EncodingRow.Statement (.jpReg0 a) :=
  ⟨⟨"JP_reg0", 0xB000#16, 0xF000#16⟩, by decide, rfl, formatNNN_fam _ _⟩

theorem Laws.EncodingRow.rnd (x : RegIx) (kk : Byte) : Laws.EncodingRow.Statement (.rnd x kk) :=
  ⟨⟨"RND", 0xC000#16, 0xF000#16⟩, by decide, rfl, formatXKK_fam _ _ _⟩

theorem Laws.EncodingRow.drw (x y : RegIx) (n : RowCount) : Laws.EncodingRow.Statement (.drw x y n) :=
  ⟨⟨"DRW", 0xD000#16, 0xF000#16⟩, by decide, rfl, formatXYN_fam _ _ _ _⟩

theorem Laws.EncodingRow.skp (x : RegIx) : Laws.EncodingRow.Statement (.skp x) :=
  ⟨⟨"SKP", 0xE09E#16, 0xF0FF#16⟩, by decide, rfl, formatXKK_low _ _ _⟩

theorem Laws.EncodingRow.sknp (x : RegIx) : Laws.EncodingRow.Statement (.sknp x) :=
  ⟨⟨"SKNP", 0xE0A1#16, 0xF0FF#16⟩, by decide, rfl, formatXKK_low _ _ _⟩

theorem Laws.EncodingRow.ldRegDT (x : RegIx) : Laws.EncodingRow.Statement (.ldRegDT x) :=
  ⟨⟨"LD_reg_DT", 0xF007#16, 0xF0FF#16⟩, by decide, rfl, formatXKK_low _ _ _⟩

theorem Laws.EncodingRow.ldRegK (x : RegIx) : Laws.EncodingRow.Statement (.ldRegK x) :=
  ⟨⟨"LD_reg_K", 0xF00A#16, 0xF0FF#16⟩, by decide, rfl, formatXKK_low _ _ _⟩

theorem Laws.EncodingRow.ldDT (x : RegIx) : Laws.EncodingRow.Statement (.ldDT x) :=
  ⟨⟨"LD_DT", 0xF015#16, 0xF0FF#16⟩, by decide, rfl, formatXKK_low _ _ _⟩

theorem Laws.EncodingRow.ldST (x : RegIx) : Laws.EncodingRow.Statement (.ldST x) :=
  ⟨⟨"LD_ST", 0xF018#16, 0xF0FF#16⟩, by decide, rfl, formatXKK_low _ _ _⟩

theorem Laws.EncodingRow.addIReg (x : RegIx) : Laws.EncodingRow.Statement (.addIReg x) :=
  ⟨⟨"ADD_I_reg", 0xF01E#16, 0xF0FF#16⟩, by decide, rfl, formatXKK_low _ _ _⟩

theorem Laws.EncodingRow.ldFReg (x : RegIx) : Laws.EncodingRow.Statement (.ldFReg x) :=
  ⟨⟨"LD_F_reg", 0xF029#16, 0xF0FF#16⟩, by decide, rfl, formatXKK_low _ _ _⟩

theorem Laws.EncodingRow.ldBReg (x : RegIx) : Laws.EncodingRow.Statement (.ldBReg x) :=
  ⟨⟨"LD_B_reg", 0xF033#16, 0xF0FF#16⟩, by decide, rfl, formatXKK_low _ _ _⟩

theorem Laws.EncodingRow.ldIReg (x : RegIx) : Laws.EncodingRow.Statement (.ldIReg x) :=
  ⟨⟨"LD_I_reg", 0xF055#16, 0xF0FF#16⟩, by decide, rfl, formatXKK_low _ _ _⟩

theorem Laws.EncodingRow.ldRegI (x : RegIx) : Laws.EncodingRow.Statement (.ldRegI x) :=
  ⟨⟨"LD_reg_I", 0xF065#16, 0xF0FF#16⟩, by decide, rfl, formatXKK_low _ _ _⟩

end Sys2Proof
end

