-- ==== Sys2Proof/Laws/Raster.lean ====
section
/-! SUPPORT. The pixels of a framebuffer, and what one plotted pixel does. -/

namespace Sys2Proof.Machine

theorem Framebuffer.pixel_eq (fb : Framebuffer) {row col : Nat} (hr : row < 32) (hc : col < 64) :
    fb.pixel row col = fb[row][col] := by
  simp [Framebuffer.pixel, hr, hc]

@[simp] theorem Framebuffer.pixel_clear (row col : Nat) : Framebuffer.clear.pixel row col = false := by
  simp [Framebuffer.pixel, Framebuffer.clear]

/-- Two framebuffers with the same pixels are equal. -/
theorem Framebuffer.ext_pixel {fb fb' : Framebuffer}
    (h : ∀ row col, row < 32 → col < 64 → fb.pixel row col = fb'.pixel row col) : fb = fb' := by
  refine Vector.ext fun row hr => Vector.ext fun col hc => ?_
  simpa [Framebuffer.pixel_eq, hr, hc] using h row col hr hc

/-- A plotted pixel is toggled if it lies on the grid, and no other pixel changes. -/
theorem pixel_plot (acc : Framebuffer × Bool) (px py row col : Nat) :
    (plot acc px py).1.pixel row col =
      (acc.1.pixel row col ^^ decide (row = py ∧ col = px ∧ py < 32 ∧ px < 64)) := by
  unfold plot
  by_cases h : py < 32 ∧ px < 64
  · rw [dif_pos h]
    by_cases hg : row < 32 ∧ col < 64
    · by_cases hr : py = row
      · subst hr
        by_cases hc : px = col
        · subst hc; simp [Framebuffer.pixel, h]
        · simp [Framebuffer.pixel, h, hg, hc, Ne.symm hc]
      · simp [Framebuffer.pixel, hg, hr, Ne.symm hr]
    · have : ¬ (row = py ∧ col = px ∧ py < 32 ∧ px < 64) := by omega
      simp only [Framebuffer.pixel, dif_neg hg, decide_eq_false this, Bool.false_xor]
  · have : ¬ (row = py ∧ col = px ∧ py < 32 ∧ px < 64) := by omega
    simp [dif_neg h, decide_eq_false this]

/-- A plotted pixel collides if it lies on the grid and was on. -/
theorem collision_plot (acc : Framebuffer × Bool) (px py : Nat) :
    (plot acc px py).2 = (acc.2 || acc.1.pixel py px) := by
  unfold plot
  by_cases h : py < 32 ∧ px < 64
  · simp [Framebuffer.pixel, h]
  · simp [dif_neg h, Framebuffer.pixel]

end Sys2Proof.Machine
end

