-- ==== Sys2Proof/Tests/Slice0.lean ====
section
/-! SUPPORT. Tests: the well-formedness check, one hand-written word per constructor, one step per
instruction from the vectors of spec/95_test_vectors.md (ids as there), and a witness for every statement
that has hypotheses. -/

namespace Sys2Proof.Tests

open Sys2Proof.Machine

/-! ## Helpers -/

/-- The start state of the vectors: reset under `CFG0`. -/
def base : State := { State.reset with config := Config.cfg0 }

/-- Registers set, first pair first. -/
def withRegs (rs : List (RegIx × Byte)) (s : State) : State := rs.foldl (fun t r => t.setReg r.1 r.2) s

/-- What the next state of an outcome shows, if there is one. -/
def seen {α : Type} (view : State → α) (r : Host.Outcome State Fault Refusal) : Option α :=
  match r with
  | .next t => some (view t)
  | .fault _ => none
  | .refused _ => none

/-- What one step of the word `w`, placed at the fetch address of `s`, shows. -/
def run {α : Type} (s : State) (w : Nat) (view : State → α) : Option α :=
  seen view (step (s.withFetchWord 16 w))

/-! ## Well-formedness and the decoder -/

theorem test_wf_refuses_sys_0E0 : (Instr.sys 0x0E0#12).wf = false := by decide
theorem test_wf_refuses_sys_0EE : (Instr.sys 0x0EE#12).wf = false := by decide
theorem test_wf_accepts_sys_0E1 : (Instr.sys 0x0E1#12).wf = true := by decide

/-- Families 0 to 7 and 9 to D, from R74 (DE1 to DE7, DE12, DE13 where the word is theirs). -/
theorem test_decode_main_families :
    decode 0x00E0#16 = some .cls ∧ decode 0x00EE#16 = some .ret ∧
    decode 0x0FFF#16 = some (.sys 0xFFF#12) ∧ decode 0x1ABC#16 = some (.jp 0xABC#12) ∧
    decode 0x2ABC#16 = some (.call 0xABC#12) ∧ decode 0x3A42#16 = some (.seRegByte 10 0x42#8) ∧
    decode 0x4A42#16 = some (.sneRegByte 10 0x42#8) ∧ decode 0x5AB0#16 = some (.seRegReg 10 11) ∧
    decode 0x6A2F#16 = some (.ldRegByte 10 0x2F#8) ∧ decode 0x7A2F#16 = some (.addRegByte 10 0x2F#8) ∧
    decode 0x9AB0#16 = some (.sneRegReg 10 11) ∧ decode 0xAABC#16 = some (.ldIAddr 0xABC#12) ∧
    decode 0xBABC#16 = some (.jpReg0 0xABC#12) ∧ decode 0xC30F#16 = some (.rnd 3 0x0F#8) ∧
    decode 0xD12A#16 = some (.drw 1 2 10) := by decide

/-- Family 8, from R74. -/
theorem test_decode_family_8 :
    decode 0x8AB0#16 = some (.ldRegReg 10 11) ∧ decode 0x8AB1#16 = some (.or 10 11) ∧
    decode 0x8AB2#16 = some (.and 10 11) ∧ decode 0x8AB3#16 = some (.xor 10 11) ∧
    decode 0x8AB4#16 = some (.add 10 11) ∧ decode 0x8AB5#16 = some (.sub 10 11) ∧
    decode 0x8AB6#16 = some (.shr 10 11) ∧ decode 0x8AB7#16 = some (.subn 10 11) ∧
    decode 0x8ABE#16 = some (.shl 10 11) := by decide

/-- Families E and F, from R74 (DE14, DE15). -/
theorem test_decode_families_E_F :
    decode 0xE19E#16 = some (.skp 1) ∧ decode 0xE1A1#16 = some (.sknp 1) ∧
    decode 0xF107#16 = some (.ldRegDT 1) ∧ decode 0xF10A#16 = some (.ldRegK 1) ∧
    decode 0xF115#16 = some (.ldDT 1) ∧ decode 0xF118#16 = some (.ldST 1) ∧
    decode 0xF11E#16 = some (.addIReg 1) ∧ decode 0xF129#16 = some (.ldFReg 1) ∧
    decode 0xF133#16 = some (.ldBReg 1) ∧ decode 0xF155#16 = some (.ldIReg 1) ∧
    decode 0xF165#16 = some (.ldRegI 1) := by decide

/-- One word per format of R72, bit by bit. -/
theorem test_decode_bit_by_bit :
    decode 0b0000000011100000#16 = some .cls ∧
    decode 0b0010001100000100#16 = some (.call 0x304#12) ∧
    decode 0b0110111100000111#16 = some (.ldRegByte 15 0x07#8) ∧
    decode 0b1000000100101110#16 = some (.shl 1 2) ∧
    decode 0b1101000100100101#16 = some (.drw 1 2 5) ∧
    decode 0b1110010110100001#16 = some (.sknp 5) ∧
    decode 0b1111001000011110#16 = some (.addIReg 2) := by decide

/-- DE8, DE10, DE12, DE14, DE16, DE17. -/
theorem test_decode_unknown :
    [0x5AB1#16, 0x8AB8#16, 0x8ABD#16, 0x8ABF#16, 0x9AB5#16, 0xE19F#16, 0xE100#16, 0xF100#16, 0xF175#16,
      0xF1FF#16, 0xF10B#16, 0xFFFF#16].all (fun w => decode w == none) = true := by decide

/-- The host's numbering: bit 0 is the low bit of the word; a decoder fed one byte refuses. -/
theorem test_decodeTableWord : decodeTableWord 16 0x8127 = some (.subn 1 2) := by decide
theorem test_decodeBytes_truncated : decodeBytes [0x12#8] = .error .truncated := by decide

/-! ## One step per instruction -/

/-- CF1, CF2. -/
theorem test_jp : run base 0x1ABC (fun t => t.pc) = some 0xABC#16 := by decide
theorem test_jp_odd : run base 0x1ABD (fun t => (t.pc, t.fault)) =
    some (0x200#16, some (.misalignedTarget 0x200#16 (some 0x1ABD#16) 0xABD#16)) := by decide
/-- CF4, CF6. -/
theorem test_call : run { base with pc := 0x24E#16, sp := 3 } 0x2300
    (fun t => (t.pc, t.sp, t.stack[3])) = some (0x300#16, 4, 0x24E#16) := by decide
theorem test_call_misaligned_before_overflow : run { base with sp := 16 } 0x2301 (fun t => t.fault) =
    some (some (.misalignedTarget 0x200#16 (some 0x2301#16) 0x301#16)) := by decide
/-- CF7, CF8. -/
theorem test_ret : run { base with pc := 0x300#16, sp := 1, stack := base.stack.set 0 0x24E#16 } 0x00EE
    (fun t => (t.pc, t.sp, t.stack[0])) = some (0x250#16, 0, 0x24E#16) := by decide
theorem test_ret_empty : run base 0x00EE (fun t => t.fault) =
    some (some (.stackUnderflow 0x200#16 0x00EE#16)) := by decide
/-- CF11, CF12. -/
theorem test_jpReg0_odd : run (withRegs [(0, 0x05#8)] base) 0xB300 (fun t => t.fault) =
    some (some (.misalignedTarget 0x200#16 (some 0xB300#16) 0x305#16)) := by decide
theorem test_jpReg0_not_reduced : run (withRegs [(0, 0xFE#8)] base) 0xBFFE (fun t => t.pc) =
    some 0x10FC#16 := by decide
/-- CF13, CF14, CF15, CF16. -/
theorem test_seRegByte : run (withRegs [(10, 0x42#8)] base) 0x3A42 (fun t => t.pc) = some 0x204#16 ∧
    run (withRegs [(10, 0x43#8)] base) 0x3A42 (fun t => t.pc) = some 0x202#16 := by decide
theorem test_sneRegByte : run (withRegs [(10, 0x43#8)] base) 0x4A42 (fun t => t.pc) = some 0x204#16 ∧
    run (withRegs [(10, 0x42#8)] base) 0x4A42 (fun t => t.pc) = some 0x202#16 := by decide
/-- CF17, CF18, CF19, CF20. -/
theorem test_seRegReg : run (withRegs [(3, 0x09#8)] base) 0x5330 (fun t => t.pc) = some 0x204#16 ∧
    run (withRegs [(1, 0x01#8), (2, 0x02#8)] base) 0x5120 (fun t => t.pc) = some 0x202#16 := by decide
theorem test_sneRegReg : run (withRegs [(3, 0x09#8)] base) 0x9330 (fun t => t.pc) = some 0x202#16 ∧
    run (withRegs [(1, 0x01#8), (2, 0x02#8)] base) 0x9120 (fun t => t.pc) = some 0x204#16 := by decide
/-- CF22, CF23. -/
theorem test_sys_nop : run { base with config := { Config.cfg0 with sysIsNop := true } } 0x0123
    (fun t => (t.pc, t.fault)) = some (0x202#16, none) := by decide
theorem test_sys_fault : run base 0x0123 (fun t => (t.pc, t.fault)) =
    some (0x200#16, some (.decodeError 0x200#16 0x0123#16)) := by decide
/-- CF25: the last word of memory runs, and the next step faults. -/
theorem test_fetch_at_end : run { base with pc := 0xFFE#16 } 0x6000 (fun t => (t.pc, t.status)) =
    some (0x1000#16, some .completed) := by decide
theorem test_fetch_past_end : seen (fun t => t.fault) (step { base with pc := 0x1000#16 }) =
    some (some (.fetchOutOfRange 0x1000#16)) := by decide

/-- AL1, AL3, AL5, AL6. -/
theorem test_ldRegByte : run base 0x6A2F (fun t => t.reg 10) = some 0x2F#8 := by decide
theorem test_addRegByte : run (withRegs [(1, 0xFE#8)] base) 0x7105 (fun t => (t.reg 1, t.reg 15)) =
    some (0x03#8, 0x00#8) := by decide
theorem test_addRegByte_VF : run (withRegs [(15, 0xFF#8)] base) 0x7F01 (fun t => t.reg 15) =
    some 0x00#8 := by decide
theorem test_ldRegReg : run (withRegs [(1, 0x01#8), (2, 0x33#8)] base) 0x8120
    (fun t => (t.reg 1, t.reg 2)) = some (0x33#8, 0x33#8) := by decide
/-- AL7, AL8, AL9, AL11. -/
theorem test_or : run (withRegs [(1, 0xF0#8), (2, 0x0F#8), (15, 0x01#8)] base) 0x8121
    (fun t => (t.reg 1, t.reg 15)) = some (0xFF#8, 0x01#8) := by decide
theorem test_or_resets_VF : run (withRegs [(1, 0x0F#8), (15, 0xF0#8)]
      { base with config := { Config.cfg0 with logicResetsVF := true } }) 0x8F11
    (fun t => t.reg 15) = some 0x00#8 := by decide
theorem test_and : run (withRegs [(1, 0xF3#8), (2, 0x3F#8), (15, 0x01#8)] base) 0x8122
    (fun t => (t.reg 1, t.reg 15)) = some (0x33#8, 0x01#8) := by decide
theorem test_xor : run (withRegs [(1, 0xFF#8), (2, 0x0F#8), (15, 0x01#8)] base) 0x8123
    (fun t => (t.reg 1, t.reg 15)) = some (0xF0#8, 0x01#8) := by decide
/-- AL12, AL18. -/
theorem test_add : run (withRegs [(1, 0xFF#8), (2, 0x01#8)] base) 0x8124
    (fun t => (t.reg 1, t.reg 15)) = some (0x00#8, 0x01#8) := by decide
theorem test_add_old_VF : run (withRegs [(1, 0x10#8), (15, 0x01#8)] base) 0x81F4
    (fun t => (t.reg 1, t.reg 15)) = some (0x11#8, 0x00#8) := by decide
/-- AL19, AL24. -/
theorem test_sub : run (withRegs [(1, 0x05#8), (2, 0x0A#8), (15, 0x01#8)] base) 0x8125
    (fun t => (t.reg 1, t.reg 15)) = some (0xFB#8, 0x00#8) := by decide
theorem test_sub_into_VF : run (withRegs [(1, 0x01#8)] base) 0x8F15 (fun t => t.reg 15) =
    some 0x00#8 := by decide
/-- AL25, AL27. -/
theorem test_subn : run (withRegs [(1, 0x0A#8), (2, 0x05#8), (15, 0x01#8)] base) 0x8127
    (fun t => (t.reg 1, t.reg 15)) = some (0xFB#8, 0x00#8) := by decide
theorem test_subn_equal : run (withRegs [(1, 0x05#8), (2, 0x05#8)] base) 0x8127
    (fun t => (t.reg 1, t.reg 15)) = some (0x00#8, 0x01#8) := by decide
/-- AL28, both policies. -/
theorem test_shr : run (withRegs [(1, 0x05#8), (2, 0x08#8)] base) 0x8126
    (fun t => (t.reg 1, t.reg 15, t.reg 2)) = some (0x02#8, 0x01#8, 0x08#8) := by decide
theorem test_shr_Vy : run (withRegs [(1, 0x05#8), (2, 0x08#8)]
      { base with config := { Config.cfg0 with shiftUsesVY := true } }) 0x8126
    (fun t => (t.reg 1, t.reg 15)) = some (0x04#8, 0x00#8) := by decide
/-- AL31, both policies. -/
theorem test_shl : run (withRegs [(1, 0x81#8), (2, 0x40#8)] base) 0x812E
    (fun t => (t.reg 1, t.reg 15)) = some (0x02#8, 0x01#8) := by decide
theorem test_shl_Vy : run (withRegs [(1, 0x81#8), (2, 0x40#8)]
      { base with config := { Config.cfg0 with shiftUsesVY := true } }) 0x812E
    (fun t => (t.reg 1, t.reg 15)) = some (0x80#8, 0x00#8) := by decide
/-- AL34. -/
theorem test_rnd : run { base with draws := [0xA7#8, 0x11#8] } 0xC30F (fun t => (t.reg 3, t.draws)) =
    some (0x07#8, [0x11#8]) := by decide
/-- S10. -/
theorem test_unknown_word : run base 0x5001 (fun t => (t.pc, t.fault, t.status)) =
    some (0x200#16, some (.decodeError 0x200#16 0x5001#16),
      some (.fault (.decodeError 0x200#16 0x5001#16))) := by decide

/-- IX1, IX5, IX6. -/
theorem test_ldIAddr : run base 0xAFFF (fun t => t.I) = some 0x0FFF#16 := by decide
theorem test_addIReg : run (withRegs [(2, 0x02#8)] { base with I := 0xFFFF#16 }) 0xF21E
    (fun t => (t.I, t.reg 15)) = some (0x0001#16, 0x00#8) := by decide
theorem test_addIReg_flag : run (withRegs [(15, 0x20#8)]
      { base with I := 0x0FF0#16, config := { Config.cfg0 with addISetsVF := true } }) 0xFF1E
    (fun t => (t.I, t.reg 15)) = some (0x1010#16, 0x01#8) := by decide
/-- IX8, IX9. -/
theorem test_ldFReg : run (withRegs [(0, 0x0F#8)] base) 0xF029 (fun t => t.I) = some 0x004B#16 := by decide
theorem test_ldFReg_low_nibble : run (withRegs [(0, 0x1A#8)] base) 0xF029 (fun t => t.I) =
    some 0x0032#16 := by decide
/-- IX12, IX15. -/
theorem test_ldBReg : run (withRegs [(5, 0xFF#8)] { base with I := 0x0FFD#16 }) 0xF533
    (fun t => t.mem.readList 0xFFD 3) = some [0x02#8, 0x05#8, 0x05#8] := by decide
theorem test_ldBReg_out_of_range : run { base with I := 0x1234#16 } 0xF533 (fun t => t.fault) =
    some (some (.memOutOfRange 0x200#16 0xF533#16 0x1234)) := by decide
/-- IX16 under the increment policy, IX18. -/
theorem test_ldIReg : run (withRegs [(0, 0x0A#8), (1, 0x0B#8), (2, 0x0C#8), (3, 0x0D#8)]
      { base with I := 0x0400#16, config := { Config.cfg0 with loadstoreIncrementsI := true } }) 0xF255
    (fun t => (t.mem.readList 0x400 4, t.I)) =
    some ([0x0A#8, 0x0B#8, 0x0C#8, 0x00#8], 0x0403#16) := by decide
theorem test_ldIReg_no_partial_store : run (withRegs [(0, 0x99#8), (1, 0x88#8)]
      { base with I := 0x0FFF#16 }) 0xF155 (fun t => (t.mem.read 0xFFF, t.fault)) =
    some (0x00#8, some (.memOutOfRange 0x200#16 0xF155#16 0x1000)) := by decide
/-- IX20, IX22 (its last six registers). -/
theorem test_ldRegI : run (withRegs [(3, 0x77#8)] base) 0xF265
    (fun t => (t.reg 0, t.reg 1, t.reg 2, t.reg 3, t.I)) =
    some (0xF0#8, 0x90#8, 0x90#8, 0x77#8, 0x0000#16) := by decide
theorem test_ldRegI_font_end : run { base with I := 0x0046#16 } 0xFF65
    (fun t => (t.reg 0, t.reg 1, t.reg 9, t.reg 10)) = some (0xF0#8, 0x80#8, 0x80#8, 0x00#8) := by decide

/-- TK1, TK2, TK3. -/
theorem test_ldRegDT : run { base with DT := 0x05#8 } 0xF107 (fun t => (t.reg 1, t.DT)) =
    some (0x05#8, 0x05#8) := by decide
theorem test_ldDT : run (withRegs [(0, 0x3C#8)] base) 0xF015 (fun t => (t.DT, t.ST)) =
    some (0x3C#8, 0x00#8) := by decide
theorem test_ldST : run (withRegs [(4, 0x02#8)] base) 0xF418 (fun t => (t.ST, t.DT, t.soundActive)) =
    some (0x02#8, 0x00#8, true) := by decide
/-- TK9, TK8. -/
theorem test_skp : run (withRegs [(5, 0xFA#8)]
      { base with pc := 0x210#16, keypad := base.keypad.set 10 true }) 0xE59E (fun t => t.pc) =
    some 0x214#16 := by decide
theorem test_sknp : run (withRegs [(5, 0x0A#8)] { base with pc := 0x210#16 }) 0xE5A1 (fun t => t.pc) =
    some 0x214#16 := by decide
/-- KW1, its first step and its last. -/
theorem test_ldRegK_begins : run { base with pc := 0x20A#16 } 0xF20A
    (fun t => (t.pc, t.keyWait, t.status)) = some (0x20A#16, .awaitDown, some .needsKey) := by decide
theorem test_ldRegK_delivers : run { base with pc := 0x20A#16, keyWait := .done 7 } 0xF20A
    (fun t => (t.pc, t.keyWait, t.reg 2)) = some (0x20C#16, .idle, 0x07#8) := by decide

/-- DS13. -/
theorem test_cls : run (withRegs [(15, 0x01#8)]
      { base with fb := base.fb.set 3 (Vector.replicate 64 true) }) 0x00E0
    (fun t => (t.fb.pixel 3 7, t.reg 15)) = some (false, 0x01#8) := by decide
/-- DS1: clipped at the corner. -/
theorem test_drw_clips : run (withRegs [(1, 0x7E#8), (2, 0x3E#8)] base) 0xD125
    (fun t => (t.fb.pixel 30 62, t.fb.pixel 30 63, t.fb.pixel 31 62, t.fb.pixel 31 63, t.fb.pixel 0 0,
      t.reg 15)) = some (true, true, true, false, false, 0x00#8) := by decide
/-- DS10: one pixel on, one off, a collision. -/
theorem test_drw_collides : run
    { base with
      I := 0x300#16, mem := base.mem.write 0x300 0xC0#8
      fb := base.fb.set 0 ((Vector.replicate 64 false).set 1 true) } 0xD121
    (fun t => (t.fb.pixel 0 0, t.fb.pixel 0 1, t.reg 15)) = some (true, false, 0x01#8) := by decide

/-! ## The other agents -/

/-- TM1, TM4. -/
theorem test_tick : seen (fun t => (t.DT, t.ST))
    (step { base with DT := 0x02#8, ST := 0x09#8, schedule := [.tick 50001] }) =
    some (0x00#8, 0x06#8) := by decide
/-- KW2, the release of the awaited key. -/
theorem test_setKey : seen (fun t => t.keyWait)
    (step { base with
      keyWait := .awaitUp 7, keypad := base.keypad.set 7 true, schedule := [.setKey 7 false] }) =
    some (.done 7) := by decide
/-- RS2. -/
theorem test_reset_loads : seen (fun t => (t.mem.readList 0x200 3, t.pc))
    (step { base with pc := 0x300#16, schedule := [.reset [0x12#8, 0x00#8]] }) =
    some ([0x12#8, 0x00#8, 0x00#8], 0x200#16) := by decide

/-! ## Witnesses: states and operands that meet the hypotheses of the statements -/

theorem witness_DecodeOfEncodeIsTheInstruction :
    (Instr.sys 0xFFF#12).wf = true ∧ (Instr.drw 15 15 15).wf = true := by decide
theorem witness_EncodeOfDecodeIsTheWord : decode 0x8AB6#16 = some (.shr 10 11) := by decide
theorem witness_UnknownWordsByFamily : decode 0xE19F#16 = none ∧ decode 0xE19E#16 ≠ none := by decide

/-- `CLS` stands at 0xFFE, the last place a fetch is defined at. -/
def lastWord : State := { base with pc := 0xFFE#16, mem := base.mem.writeList 0xFFE [0x00#8, 0xE0#8] }

theorem witness_StepRunsTheDecodedInstruction :
    (lastWord.fault = none ∧ lastWord.pc.toNat % 2 = 0 ∧ lastWord.pc.toNat ≤ 0xFFE ∧
      decode (BitVec.ofNat 16 ((lastWord.mem.read lastWord.pc.toNat).toNat * 256 +
        (lastWord.mem.read (lastWord.pc.toNat + 1)).toNat)) = some .cls ∧ lastWord.schedule = []) ∧
    { lastWord with schedule := [.step, .tick 1] }.schedule = .step :: [.tick 1] := by decide

/-- A fault record to latch. -/
def someFault : Fault := .fetchOutOfRange 0x1000#16

theorem witness_StepWithoutInstruction :
    base.driverNext ∧ { base with schedule := [.step, .tick 1] }.driverNext ∧
    { base with fault := some someFault }.fault = some someFault ∧
    (base.fault = none ∧ { base with pc := 0x201#16 }.pc.toNat % 2 = 1) ∧
    (0xFFE < { base with pc := 0x1000#16 }.pc.toNat ∧ { base with pc := 0x1000#16 }.pc.toNat % 2 = 0) ∧
    ({ base with pc := 0xFFE#16, mem := base.mem.write 0xFFE 0xFF#8 }.fetchable ∧
      decode { base with pc := 0xFFE#16, mem := base.mem.write 0xFFE 0xFF#8 }.fetchedWord = none) := by
  decide
theorem witness_PlacedWordIsFetchedNext :
    decode (BitVec.ofNat 16 0xF165) = some (.ldRegI 1) ∧ 0xF165 < 2 ^ 16 := by decide
theorem witness_DefaultEpilogueAdvancesByTwo :
    Instr.cls.hasDefaultEpilogue = true ∧ ∃ t, exec .cls base = .next t ∧ t.status = some .completed :=
  ⟨by decide, _, rfl, by decide⟩
theorem witness_EveryStepAnswers :
    { base with schedule := [.reset (List.replicate 3585 0x00#8)] }.nextEvent =
      .reset (List.replicate 3585 0x00#8) ∧ 3584 < (List.replicate 3585 0x00#8).length :=
  ⟨rfl, by rw [List.length_replicate]; decide⟩

/-- A draw that fits exactly, with `I + n - 1 = 0xFFF`, with and without a collision; and the empty draw. -/
theorem witness_DrwTogglesCoveredPixels :
    { base with I := 0x0FFF#16 }.I.toNat + (1 : RowCount).val - 1 ≤ 0xFFF ∧
    (({ base with I := 0x000#16, fb := base.fb.set 0 ((Vector.replicate 64 false).set 0 true) }).fb.pixel 0 0
        = true ∧ base.spriteCovers 0 0 1 0 0 = true) ∧
    (base.fb.pixel 0 0 = false ∧ base.spriteCovers 0 0 1 0 4 = false) ∧ (0 : RowCount).val = 0 := by
  decide
theorem witness_DrawingTwiceRestores :
    base.fb.pixel 0 0 = false ∧ (draw base.fb 0 0 [0x80#8]).1.pixel 0 0 = true := by decide

theorem witness_JumpsGoToEvenTargets :
    (0xFFE#12 : Addr).toNat % 2 = 0 ∧
    ((0xFFF#12 : Addr).toNat + ((withRegs [(0, 0xFF#8)] base).reg 0).toNat) % 2 = 0 := by decide
theorem witness_OddTargetsAreLatched :
    (0xFFF#12 : Addr).toNat % 2 = 1 ∧
    ((0xFFE#12 : Addr).toNat + ((withRegs [(0, 0xFF#8)] base).reg 0).toNat) % 2 = 1 := by decide
theorem witness_CallPushesItsOwnAddress :
    { base with sp := 15 }.sp.val < 16 ∧ (0x204#12 : Addr).toNat % 2 = 0 := by decide
theorem witness_CallOnFullStackIsLatched :
    { base with sp := 16 }.sp.val = 16 ∧ (0x204#12 : Addr).toNat % 2 = 0 := by decide

/-- A state of a run inside a subroutine: the return address is pushed, a byte has been stored. -/
def inSubroutine : State :=
  { base with
    pc := 0x300#16, sp := 1, stack := base.stack.set 0 0xFFE#16, mem := [(0x300, 0x22#8)]
    schedule := [.step, .tick 16667] }

theorem inSubroutine_inv : Inv inSubroutine where
  pcEven := by decide
  pcBound := by decide
  stackEntries := by decide
  memory := by decide
  latchNotLoad := by simp [inSubroutine, base, State.reset]
  latchReported := by simp [inSubroutine, base, State.reset]
  waiting := fun h => absurd rfl h

theorem witness_RetResumesAfterTheCall :
    base.sp.val = 0 ∧ 0 < inSubroutine.sp.val ∧ Inv inSubroutine := ⟨rfl, by decide, inSubroutine_inv⟩
theorem witness_CallThenRetComesBack :
    (0x300#12 : Addr).toNat % 2 = 0 ∧ inSubroutine.sp.val < 16 := by decide
theorem witness_SysFollowsThePolicy :
    (Instr.sys 0x0E1#12).wf = true ∧
    { base with config := { Config.cfg0 with sysIsNop := true } }.config.sysIsNop = true ∧
    base.config.sysIsNop = false := by decide
theorem witness_KeySkipsMoveOnlyPc :
    (10 : KeyIx).val = ((withRegs [(5, 0xFA#8)] base).reg 5).toNat % 16 := by decide
theorem witness_ShiftsWriteTheBitShiftedOut :
    (0x05#8 = if (withRegs [(1, 0x05#8), (2, 0x08#8)] base).config.shiftUsesVY = true then
        (withRegs [(1, 0x05#8), (2, 0x08#8)] base).reg 2
      else (withRegs [(1, 0x05#8), (2, 0x08#8)] base).reg 1) := by decide
theorem witness_RndMasksTheDraw :
    { base with draws := [0xA7#8] }.draws = 0xA7#8 :: [] ∧ base.draws = [] := by decide
theorem witness_KeyWaitBlocksThenDelivers :
    base.keyWait = .idle ∧ { base with keyWait := .awaitDown }.keyWait = .awaitDown ∧
    { base with keyWait := .awaitUp 15 }.keyWait = .awaitUp 15 ∧
    { base with keyWait := .done 15 }.keyWait = .done 15 := by decide

/-- A key wait in progress at 0x20A. -/
def waitingState : State :=
  { base with
    pc := 0x20A#16, mem := base.mem.writeList 0x20A [0xF2#8, 0x0A#8], keyWait := .awaitDown
    status := some .needsKey }

theorem waitingState_inv : Inv waitingState where
  pcEven := by decide
  pcBound := by decide
  stackEntries := by decide
  memory := by decide
  latchNotLoad := by simp [waitingState, base, State.reset]
  latchReported := by simp [waitingState, base, State.reset]
  waiting := fun _ => ⟨2, by decide⟩

theorem witness_OnlyLdRegKBlocks :
    waitingState.driverNext ∧ ∃ t, step waitingState = .next t ∧ t.status = some .needsKey :=
  ⟨by decide, _, rfl, by decide⟩

theorem witness_BcdStoresThreeDigits : { base with I := 0x0FFD#16 }.I.toNat + 2 ≤ 0xFFF := by decide
theorem witness_DumpStoresRegistersUpToX :
    { base with I := 0x0FF0#16 }.I.toNat + (15 : RegIx).val ≤ 0xFFF ∧ (15 : RegIx) ≤ 15 ∧
    0xFEF < { base with I := 0x0FF0#16 }.I.toNat := by decide
theorem witness_LoadFillsRegistersUpToX :
    { base with I := 0x0FFF#16 }.I.toNat + (0 : RegIx).val ≤ 0xFFF := by decide
theorem witness_AccessPastMemoryIsLatched :
    0xFFF < { base with I := 0x0FFE#16 }.I.toNat + 2 ∧
    0xFFF < { base with I := 0x0FFF#16 }.I.toNat + (1 : RegIx).val ∧
    (0 < (2 : RowCount).val ∧ 0xFFF < { base with I := 0x0FFF#16 }.I.toNat + (2 : RowCount).val - 1) := by
  decide
/-- The first store ends on the high byte of the next word, the second covers the low byte only. -/
theorem witness_StoredCodeIsFetchedNext :
    (∃ (t : State) (b : Nat → Byte),
      exec (.ldIReg 1) { base with I := 0x0201#16 } = .next t ∧
      (∀ k : RegIx, k ≤ 1 → b (0x201 + k.val) = base.reg k) ∧
      ∀ a, a < 0x201 ∨ 0x201 + (1 : RegIx).val < a → b a = base.mem.read a) ∧
    ∃ (t : State) (b : Nat → Byte),
      exec (.ldBReg 0) { base with I := 0x0203#16 } = .next t ∧
      (b 0x203 = 0x00#8 ∧ b 0x204 = 0x00#8 ∧ b 0x205 = 0x00#8) ∧
      ∀ a, a < 0x203 ∨ 0x203 + 2 < a → b a = base.mem.read a :=
  ⟨⟨_, base.mem.read, rfl, by decide, fun _ _ => rfl⟩, _, base.mem.read, rfl, by decide, fun _ _ => rfl⟩
theorem witness_EqualReadsMakeEqualMemories :
    Memory.wf [(0x300, 0x22#8)] ∧ Memory.wf (Memory.write [(0x300, 0x11#8)] 0x300 0x22#8) ∧
    ∀ a, Memory.read [(0x300, 0x22#8)] a = (Memory.write [(0x300, 0x11#8)] 0x300 0x22#8).read a :=
  ⟨by decide, by decide, fun _ => rfl⟩

theorem witness_TickLowersBothTimers :
    { base with DT := 0x0A#8, schedule := [.tick 100000, .step] }.schedule = .tick 100000 :: [.step] := by
  decide

/-- A schedule that sets key `k`, from a key-wait latch `w`; key 7 is down. -/
def keyState (k : KeyIx) (pressed : Bool) (w : KeyWait) : State :=
  { base with keyWait := w, keypad := base.keypad.set 7 true, schedule := [.setKey k pressed] }

theorem witness_SetKeySetsLevelAndMovesLatch :
    (keyState 7 true .awaitDown).schedule = .setKey 7 true :: [] ∧
    (true = (keyState 7 true .awaitDown).keypad[(7 : KeyIx)]) ∧
    ((keyState 3 true .idle).keyWait = .idle) ∧
    ((keyState 7 false .awaitDown).keyWait = .awaitDown) ∧
    ((keyState 3 true .awaitDown).keyWait = .awaitDown ∧
      (keyState 3 true .awaitDown).keypad[(3 : KeyIx)] = false) ∧
    ((keyState 7 false (.awaitUp 7)).keyWait = .awaitUp 7 ∧
      (keyState 7 false (.awaitUp 7)).keypad[(7 : KeyIx)] = true) ∧
    ((keyState 7 false (.awaitUp 3)).keyWait = .awaitUp 3 ∧ (7 : KeyIx) ≠ 3) ∧
    ((keyState 7 false (.done 7)).keyWait = .done 7) := by decide
theorem witness_ResetCreatesTheStateAfresh :
    { base with schedule := [.reset (List.replicate 3584 0xFF#8)] }.schedule =
      .reset (List.replicate 3584 0xFF#8) :: [] ∧ (List.replicate 3584 0xFF#8).length ≤ 3584 :=
  ⟨rfl, by rw [List.length_replicate]⟩
theorem witness_OversizedImageIsLoadError :
    { base with schedule := [.reset (List.replicate 3585 0xFF#8)] }.schedule =
      .reset (List.replicate 3585 0xFF#8) :: [] ∧ 3584 < (List.replicate 3585 0xFF#8).length :=
  ⟨rfl, by rw [List.length_replicate]; decide⟩

/-- The invariant has states other than reset, and steps from them answer. -/
theorem witness_StepKeepsTheInvariant :
    (Inv inSubroutine ∧ ∃ t, step inSubroutine = .next t) ∧
    (Inv waitingState ∧ ∃ t, step waitingState = .next t) :=
  ⟨⟨inSubroutine_inv, _, rfl⟩, waitingState_inv, _, rfl⟩

theorem witness_InstructionsWriteOnlyTabledState :
    mayWrite base.config (.ldRegI 2) (.reg 3) = false ∧ mayWrite base.config (.ldRegI 2) .index = false ∧
    ∃ t, exec (.ldRegI 2) base = .next t := ⟨by decide, by decide, _, rfl⟩
theorem witness_OnlyResetAndStoresWriteMemory :
    (∃ t, step ((withRegs [(0, 0x99#8)] { base with I := 0x0FFF#16 }).withFetchWord 16 0xF055) = .next t ∧
      t.mem.read 0xFFF ≠
        ((withRegs [(0, 0x99#8)] { base with I := 0x0FFF#16 }).withFetchWord 16 0xF055).mem.read 0xFFF) ∧
    ∃ t, step { base with schedule := [.reset [0x12#8]] } = .next t ∧
      t.mem.read 0x200 ≠ base.mem.read 0x200 :=
  ⟨⟨_, rfl, by decide⟩, _, rfl, by decide⟩
theorem witness_TimersMoveOnlyByLoadAndTick :
    (∃ t, step ((withRegs [(0, 0x3C#8)] base).withFetchWord 16 0xF015) = .next t ∧
      base.DT.toNat < t.DT.toNat) ∧
    (∃ t, step ((withRegs [(0, 0x3C#8)] base).withFetchWord 16 0xF018) = .next t ∧
      base.ST.toNat < t.ST.toNat) ∧
    ∃ t, step { base with DT := 0x02#8, ST := 0x02#8, schedule := [.tick 16667] } = .next t ∧
      t.DT.toNat < 2 ∧ t.ST.toNat < 2 :=
  ⟨⟨_, rfl, by decide⟩, ⟨_, rfl, by decide⟩, _, rfl, by decide, by decide⟩
theorem witness_SoundActiveFollowsST :
    ∃ t, step ((withRegs [(4, 0x02#8)] base).withFetchWord 16 0xF418) = .next t ∧
      t.soundActive ≠ base.soundActive := ⟨_, rfl, by decide⟩
theorem witness_ConfigIsConstant : ∃ t, step { base with schedule := [.reset []] } = .next t := ⟨_, rfl⟩
theorem witness_FaultEntryIsPrecise :
    base.fault = none ∧
    ∃ t, step (base.withFetchWord 16 0x1ABD) = .next t ∧
      t.fault = some (.misalignedTarget 0x200#16 (some 0x1ABD#16) 0xABD#16) := ⟨rfl, _, rfl, by decide⟩
theorem witness_FaultRecordsPcAndFetchedWord :
    base.fault = none ∧
    (∃ t, step (base.withFetchWord 16 0xFFFF) = .next t ∧
      t.fault = some (.decodeError 0x200#16 0xFFFF#16)) ∧
    (Fault.decodeError 0x200#16 0xFFFF#16).op? = some 0xFFFF#16 := ⟨rfl, ⟨_, rfl, by decide⟩, rfl⟩
theorem witness_LatchedFaultStaysUntilReset :
    { base with fault := some someFault }.fault = some someFault ∧
    { base with fault := some someFault }.driverNext ∧
    (∃ t, step { base with fault := some someFault } = .next t) ∧
    ∃ t, step { base with fault := some someFault, schedule := [.reset []] } = .next t :=
  ⟨rfl, by decide, ⟨_, rfl⟩, _, rfl⟩
theorem witness_DecodeErrorForUnknownAndSys :
    (base.driverNext ∧ base.fault = none ∧ base.fetchable ∧
      decode base.fetchedWord = some (.sys 0x000#12) ∧ base.config.sysIsNop = false) ∧
    decode (base.withFetchWord 16 0x5001).fetchedWord = none ∧
    ∃ t, step base = .next t ∧ t.fault = some (.decodeError 0x200#16 0x0000#16) :=
  ⟨by decide, by decide, _, rfl, by decide⟩
theorem witness_NextPcIsOneOfFive :
    (base.withFetchWord 16 0xBFFE).driverNext ∧
    ∃ t, step ((withRegs [(0, 0xFE#8)] base).withFetchWord 16 0xBFFE) = .next t ∧ t.pc = 0x10FC#16 :=
  ⟨by decide, _, rfl, by decide⟩
theorem witness_SelfJumpIsAFixedPoint :
    (base.withFetchWord 16 0x1200).schedule = [] ∧ (base.withFetchWord 16 0x1200).driverNext ∧
    ({ base with schedule := [.tick 1] }.withFetchWord 16 0x1200).driverNext ∧
    ({ base.withFetchWord 16 0x1200 with status := some .completed }.fetches (.jp 0x200#12)) ∧
    (base.withFetchWord 16 0x1200).fetches (.jp 0x200#12) ∧
    (0x200#12 : Addr).toNat = (base.withFetchWord 16 0x1200).pc.toNat := by decide

end Sys2Proof.Tests
end

section
/-! The host's way in: a word placed by `withFetchWord` is what the very next step fetches (log 7). -/

namespace Sys2Proof

/-- A 16-bit word keeps all its bits in the host's numbering. -/
theorem tableWord_of_lt {w : Nat} (h : w < 2 ^ 16) : tableWord 16 w = BitVec.ofNat 16 w := by
  rw [tableWord, Nat.mod_eq_of_lt h]

end Sys2Proof

namespace Sys2Proof.Machine

/-- A word stored high byte first reads back as itself (R53). -/
theorem Memory.wordOfBytes_read_writeList (m : Memory) (a : Nat) (op : Word) :
    wordOfBytes ((m.writeList a [highByte op, lowByte op]).read a)
      ((m.writeList a [highByte op, lowByte op]).read (a + 1)) = op := by
  simp [Memory.read_writeList]

/-- The place chosen for a word is one `Fetch` is defined at (R56), whatever `pc` is. -/
theorem State.fetchPlace_even_le (s : State) :
    s.fetchPlace.toNat % 2 = 0 ∧ s.fetchPlace.toNat ≤ 0xFFE := by
  unfold State.fetchPlace
  split
  · assumption
  · decide

theorem State.fetchable_placeWord (s : State) (op : Word) : (s.placeWord op).fetchable :=
  s.fetchPlace_even_le

theorem State.fetchedWord_placeWord (s : State) (op : Word) : (s.placeWord op).fetchedWord = op :=
  Memory.wordOfBytes_read_writeList s.mem s.fetchPlace.toNat op

/-- The driver acts next, whether or not other actions were already listed (log 3). -/
theorem State.driverNext_placeWord (s : State) (op : Word) : (s.placeWord op).driverNext := by
  unfold State.driverNext State.nextEvent State.placeWord
  by_cases h : s.schedule = []
  · simp [h]
  · simp [h]

theorem State.fetches_placeWord (s : State) {op : Word} {i : Instr} (h : decode op = some i) :
    (s.placeWord op).fetches i :=
  ⟨rfl, s.fetchable_placeWord op, by rw [s.fetchedWord_placeWord op, h]⟩

/-- Settles O9: the placed word stands at a defined fetch address, no fault is latched, and the driver's
`Step` comes before any listed action. -/
theorem placedWordIsFetchedNext : Obligations.PlacedWordIsFetchedNext := by
  intro s w i hdec hw
  rw [State.withFetchWord, tableWord_of_lt hw]
  exact ⟨s.driverNext_placeWord _, s.fetches_placeWord hdec⟩

end Sys2Proof.Machine
end

section
/-! What each update leaves the same (10_state.md R36), component by component. -/

namespace Sys2Proof.Machine

theorem Component.Same.refl (c : Component) (s : State) : c.Same s s := by
  cases c <;> simp [Component.Same]

theorem Component.Same.trans {c : Component} {s t u : State} (h : c.Same s t) (h' : c.Same t u) :
    c.Same s u := by
  cases c <;> simp_all [Component.Same]

section
variable {c : Component} (s : State)

/-! ## The named updates -/

/-- `pc` and the status are no component of R36. -/
theorem Component.Same.goTo (a : Word) : c.Same s (s.goTo a) := by
  cases c <;> simp [Component.Same]

theorem Component.Same.latch (f : Fault) : c.Same s (s.latch f) := by
  cases c <;> simp [Component.Same]

theorem Component.Same.setReg {r : RegIx} (v : Byte) (h : c ≠ .reg r) : c.Same s (s.setReg r v) := by
  cases c <;> simp_all [Component.Same]

theorem Component.Same.setFlag (b : Bool) (h : c ≠ .reg 15) : c.Same s (s.setFlag b) :=
  .setReg s _ h

theorem Component.Same.logicFlag (h : s.config.logicResetsVF = true → c ≠ .reg 15) :
    c.Same s s.logicFlag := by
  unfold State.logicFlag
  split
  · next hc => exact .setFlag s false (h hc)
  · exact .refl c s

theorem Component.Same.setI (w : Word) (h : c ≠ .index) : c.Same s (s.setI w) := by
  cases c <;> simp_all [Component.Same]

theorem Component.Same.indexFlag (n : Nat) (h : s.config.addISetsVF = true → c ≠ .reg 15) :
    c.Same s (s.indexFlag n) := by
  unfold State.indexFlag
  split
  · next hc => exact .setFlag s _ (h hc)
  · exact .refl c s

theorem Component.Same.bumpI (x : RegIx) (h : s.config.loadstoreIncrementsI = true → c ≠ .index) :
    c.Same s (s.bumpI x) := by
  unfold State.bumpI
  split
  · next hc => exact .setI s _ (h hc)
  · exact .refl c s

theorem Component.Same.store (a : Nat) (bs : List Byte) (h : c ≠ .mem) : c.Same s (s.store a bs) := by
  cases c <;> simp_all [Component.Same, State.reg]

theorem Component.Same.loadRegs {x : RegIx} (h : ∀ r ≤ x, c ≠ .reg r) : c.Same s (s.loadRegs x) := by
  cases c with
  | reg r =>
    have hr : ¬ r ≤ x := fun hr => h r hr rfl
    simp [Component.Same, hr]
  | _ => simp [Component.Same]

theorem Component.Same.dropDraw (h : c ≠ .draws) : c.Same s s.dropDraw := by
  cases c <;> simp_all [Component.Same]

/-! ## The updates of one component by its field -/

theorem Component.Same.screen (fb : Framebuffer) (h : c ≠ .screen) :
    c.Same s { s with fb := fb } := by
  cases c <;> simp_all [Component.Same, State.reg]

theorem Component.Same.delayTimer (v : Byte) (h : c ≠ .delayTimer) :
    c.Same s { s with DT := v } := by
  cases c <;> simp_all [Component.Same, State.reg]

theorem Component.Same.soundTimer (v : Byte) (h : c ≠ .soundTimer) :
    c.Same s { s with ST := v } := by
  cases c <;> simp_all [Component.Same, State.reg]

theorem Component.Same.stack (es : Vector Word 16) (p : Fin 17) (h : c ≠ .stack) :
    c.Same s { s with stack := es, sp := p } := by
  cases c <;> simp_all [Component.Same, State.reg]

theorem Component.Same.keyWait (w : KeyWait) (o : Option Status) (h : c ≠ .keyWait) :
    c.Same s { s with keyWait := w, status := o } := by
  cases c <;> simp_all [Component.Same, State.reg]

end

end Sys2Proof.Machine
end

section
/-! The ends of an instruction, said once for all 35 (R36, R91 to R96, R176): it raises a fault, blocks on
a key, or makes its writes and then moves `pc`. -/

namespace Sys2Proof.Machine

/-- `u` is `s` with the writes of `i` made, before `pc` moves: within the row of R36, in memory and on the
stack what a store and a push leave; `LD_reg_K` ends its wait, the others leave the latch. -/
structure AfterWrites (i : Instr) (s u : State) : Prop where
  frame : ∀ c : Component, mayWrite s.config i c = false → c.Same s u
  config : u.config = s.config := by simp
  schedule : u.schedule = s.schedule := by simp
  fault : u.fault = s.fault := by simp
  pc : u.pc = s.pc := by simp
  mem : u.mem = s.mem ∨
    ∃ bs : List Byte, s.I.toNat + bs.length ≤ 0x1000 ∧ u.mem = s.mem.writeList s.I.toNat bs := by simp
  stack : u.stack = s.stack ∨
    ∃ room : s.sp.val < 16, u.stack = s.stack.set s.sp.val s.pc room := by simp
  keyWait : (∀ x, i ≠ .ldRegK x) ∧ u.keyWait = s.keyWait ∨ u.keyWait = .idle := by simp

/-- Where an instruction that completes in `s` may leave `pc` (R92, R93, R111 to R114). -/
inductive NextPc (s : State) : Instr → Word → Prop
  | advance (i : Instr) : NextPc s i (s.pc + 2#16)
  | skip (i : Instr) : NextPc s i (s.pc + 4#16)
  | jp {nnn : Addr} (even : (addrWord nnn).toNat % 2 = 0) : NextPc s (.jp nnn) (addrWord nnn)
  | call {nnn : Addr} (even : (addrWord nnn).toNat % 2 = 0) : NextPc s (.call nnn) (addrWord nnn)
  | jpReg0 {nnn : Addr} (even : (offsetTarget nnn s).toNat % 2 = 0) :
      NextPc s (.jpReg0 nnn) (offsetTarget nnn s)
  | ret (used : 0 < s.sp.val) : NextPc s .ret (s.stack[s.sp.val - 1] + 2#16)

/-- The three ends of an instruction executed in `s`, each with the state it answers. -/
inductive Ends (s : State) : Instr → State → Prop
  /-- The record holds the `pc` and the word of the instruction (R170); `LD_reg_K` raises nothing. -/
  | raises {i : Instr} {f : Fault} (hpc : f.pc? = some s.pc) (hop : f.op? = some (encode i))
      (hi : ∀ x, i ≠ .ldRegK x) : Ends s i (s.latch f)
  | blocks (x : RegIx) (w : KeyWait) :
      Ends s (.ldRegK x) { s with keyWait := w, status := some .needsKey }
  | completes {i : Instr} {u : State} {a : Word} (hu : AfterWrites i s u) (ha : NextPc s i a) :
      Ends s i (u.goTo a)

/-! ## The writes of each shape of instruction -/

section
variable {i : Instr} {s : State}

theorem AfterWrites.none (hi : ∀ x, i ≠ .ldRegK x) : AfterWrites i s s where
  frame c _ := .refl c s
  keyWait := .inl ⟨hi, rfl⟩

theorem AfterWrites.setReg {x : RegIx} {v : Byte} (hi : ∀ x, i ≠ .ldRegK x)
    (hx : ∀ c, mayWrite s.config i c = false → c ≠ .reg x) : AfterWrites i s (s.setReg x v) where
  frame c hc := .setReg s v (hx c hc)
  keyWait := .inl ⟨hi, rfl⟩

/-- A result and then the flag (R96, R120). -/
theorem AfterWrites.setFlag {x : RegIx} {v : Byte} {b : Bool} (hi : ∀ x, i ≠ .ldRegK x)
    (hx : ∀ c, mayWrite s.config i c = false → c ≠ .reg x ∧ c ≠ .reg 15) :
    AfterWrites i s ((s.setReg x v).setFlag b) where
  frame c hc := .trans (.setReg s v (hx c hc).1) (.setFlag _ b (hx c hc).2)
  keyWait := .inl ⟨hi, rfl⟩

/-- A result and then the flag, where the policy writes it (R124). -/
theorem AfterWrites.logicFlag {x : RegIx} {v : Byte} (hi : ∀ x, i ≠ .ldRegK x)
    (hx : ∀ c, mayWrite s.config i c = false →
      c ≠ .reg x ∧ (s.config.logicResetsVF = true → c ≠ .reg 15)) :
    AfterWrites i s (s.setReg x v).logicFlag where
  frame c hc := .trans (.setReg s v (hx c hc).1) (.logicFlag _ (hx c hc).2)
  keyWait := .inl ⟨hi, by simp⟩

theorem AfterWrites.setI {w : Word} (hi : ∀ x, i ≠ .ldRegK x)
    (hx : ∀ c, mayWrite s.config i c = false → c ≠ .index) : AfterWrites i s (s.setI w) where
  frame c hc := .setI s w (hx c hc)
  keyWait := .inl ⟨hi, rfl⟩

end

/-! ## The writes of one instruction -/

section
variable (s : State) (x y : RegIx)

theorem afterWrites_cls : AfterWrites .cls s { s with fb := Framebuffer.clear } where
  frame c hc := .screen s _ (by simpa [mayWrite] using hc)

theorem afterWrites_ldDT (v : Byte) : AfterWrites (.ldDT x) s { s with DT := v } where
  frame c hc := .delayTimer s v (by simpa [mayWrite] using hc)

theorem afterWrites_ldST (v : Byte) : AfterWrites (.ldST x) s { s with ST := v } where
  frame c hc := .soundTimer s v (by simpa [mayWrite] using hc)

theorem afterWrites_ret (p : Fin 17) : AfterWrites .ret s { s with sp := p } where
  frame c hc := .stack s s.stack p (by simpa [mayWrite] using hc)

theorem afterWrites_call (nnn : Addr) (p : Fin 17) (room : s.sp.val < 16) :
    AfterWrites (.call nnn) s { s with stack := s.stack.set s.sp.val s.pc room, sp := p } where
  frame c hc := .stack s _ p (by simpa [mayWrite] using hc)
  stack := .inr ⟨room, rfl⟩

theorem afterWrites_ldRegK (v : Byte) :
    AfterWrites (.ldRegK x) s { s.setReg x v with keyWait := .idle } where
  frame c hc := by
    have hc : c ≠ .reg x ∧ c ≠ .keyWait := by simpa [mayWrite] using hc
    exact .trans (.setReg s v hc.1) (.keyWait _ .idle s.status hc.2)

theorem afterWrites_drw (n : RowCount) (fb : Framebuffer) (b : Bool) :
    AfterWrites (.drw x y n) s ({ s.setFlag false with fb := fb }.setFlag b) where
  frame c hc := by
    have hc : c ≠ .screen ∧ c ≠ .reg 15 := by simpa [mayWrite] using hc
    exact .trans (.trans (.setFlag s false hc.2) (.screen _ fb hc.1)) (.setFlag _ b hc.2)

theorem afterWrites_rnd (kk v : Byte) : AfterWrites (.rnd x kk) s (s.dropDraw.setReg x v) where
  frame c hc := by
    have hc : c ≠ .reg x ∧ c ≠ .draws := by simpa [mayWrite] using hc
    exact .trans (.dropDraw s hc.2) (.setReg _ v hc.1)

theorem afterWrites_addIReg (w : Word) (n : Nat) :
    AfterWrites (.addIReg x) s ((s.setI w).indexFlag n) where
  frame c hc := by
    have hc : c ≠ .index ∧ (s.config.addISetsVF = true → c ≠ .reg 15) := by
      simpa [mayWrite] using hc
    exact .trans (.setI s w hc.1) (.indexFlag _ n hc.2)

theorem afterWrites_ldRegI : AfterWrites (.ldRegI x) s ((s.loadRegs x).bumpI x) where
  frame c hc := by
    have hr : ∀ r ≤ x, c ≠ .reg r := by
      rintro r hr rfl
      simp [mayWrite, hr] at hc
    have hI : s.config.loadstoreIncrementsI = true → c ≠ .index := by
      rintro hp rfl
      simp [mayWrite, hp] at hc
    exact .trans (.loadRegs s hr) (.bumpI _ x hI)

/-- The digits of a byte, stored where all three lie in memory (R140, R144). -/
theorem afterWrites_ldBReg (h : s.I.toNat + 2 ≤ 0xFFF) :
    AfterWrites (.ldBReg x) s (s.store s.I.toNat (bcdDigits (s.reg x))) where
  frame c hc := .store s _ _ (by simpa [mayWrite] using hc)
  mem := .inr ⟨bcdDigits (s.reg x), Nat.succ_le_succ h, rfl⟩

/-- A dump that lies in memory, and the move of `I` where the policy makes it (R140, R145). -/
theorem afterWrites_ldIReg (h : s.I.toNat + x.val ≤ 0xFFF) :
    AfterWrites (.ldIReg x) s ((s.store s.I.toNat (s.regsUpTo x)).bumpI x) where
  frame c hc := by
    have hc : c ≠ .mem ∧ (s.config.loadstoreIncrementsI = true → c ≠ .index) := by
      simpa [mayWrite] using hc
    exact .trans (.store s _ _ hc.1) (.bumpI _ x hc.2)
  mem := .inr ⟨s.regsUpTo x, by rw [length_regsUpTo]; omega, by simp⟩

end

/-! ## From the way a meaning ends to its end -/

section
variable {i : Instr} {s t : State}

theorem Ends.of_epilogue {u : State} (h : epilogue u = .next t) (hu : AfterWrites i s u) :
    Ends s i t := by
  rw [← epilogue_eq_next.mp h, hu.pc]
  exact .completes hu (.advance i)

theorem Ends.of_skipIf {b : Bool} (h : skipIf b s = .next t) (hi : ∀ x, i ≠ .ldRegK x) :
    Ends s i t := by
  rw [← skipIf_eq_next.mp h]
  refine .completes (.none hi) ?_
  cases b
  · exact .advance i
  · exact .skip i

theorem Ends.of_checkTarget {a : Word} {k : Result} (h : checkTarget (encode i) a s k = .next t)
    (hi : ∀ x, i ≠ .ldRegK x) (hk : a.toNat % 2 = 0 → k = .next t → Ends s i t) : Ends s i t := by
  rcases checkTarget_cases h with ⟨-, rfl⟩ | ⟨he, h⟩
  · exact .raises rfl rfl hi
  · exact hk he h

theorem Ends.of_checkRange {n : Nat} {k : Result} (h : checkRange (encode i) n s k = .next t)
    (hi : ∀ x, i ≠ .ldRegK x) (hk : s.I.toNat + n ≤ 0xFFF → k = .next t → Ends s i t) :
    Ends s i t := by
  rcases checkRange_cases h with ⟨-, rfl⟩ | ⟨hr, h⟩
  · exact .raises rfl rfl hi
  · exact hk hr h

/-! ## The instructions with more than one way to end -/

theorem execSys_ends {nnn : Addr} (h : execSys nnn s = .next t) : Ends s (.sys nnn) t := by
  obtain rfl := Host.Outcome.next.inj h
  split
  · exact .completes (.none (by simp)) (.advance _)
  · exact .raises rfl rfl (by simp)

theorem execRet_ends (h : execRet s = .next t) : Ends s .ret t := by
  unfold execRet at h
  split at h
  · next a u hp =>
    obtain ⟨used, rfl, rfl⟩ := State.pop_eq_some hp
    obtain rfl := Host.Outcome.next.inj h
    exact .completes (afterWrites_ret s _) (.ret used)
  · obtain rfl := raise_eq_next.mp h
    exact .raises rfl rfl (by simp)

theorem execCall_ends {nnn : Addr} (h : execCall nnn s = .next t) : Ends s (.call nnn) t :=
  .of_checkTarget h (by simp) fun he h => by
    split at h
    · next u hp =>
      obtain ⟨room, rfl⟩ := State.push_eq_some hp
      obtain rfl := Host.Outcome.next.inj h
      exact .completes (afterWrites_call s nnn _ room) (.call he)
    · obtain rfl := raise_eq_next.mp h
      exact .raises rfl rfl (by simp)

theorem drawSprite_ends {x y : RegIx} {n : RowCount} (h : drawSprite x y n s = .next t) :
    Ends s (.drw x y n) t :=
  .of_epilogue h (afterWrites_drw s x y n _ _)

theorem execDrw_ends {x y : RegIx} {n : RowCount} (h : execDrw x y n s = .next t) :
    Ends s (.drw x y n) t := by
  unfold execDrw at h
  split at h
  · exact drawSprite_ends h
  · exact .of_checkRange h (by simp) fun _ h => drawSprite_ends h

theorem execLdRegK_ends {x : RegIx} (h : execLdRegK x s = .next t) : Ends s (.ldRegK x) t := by
  unfold execLdRegK at h
  split at h
  · obtain rfl := block_eq_next.mp h
    exact .blocks x .awaitDown
  · obtain rfl := block_eq_next.mp h
    exact .blocks x s.keyWait
  · obtain rfl := block_eq_next.mp h
    exact .blocks x s.keyWait
  · exact .of_epilogue h (afterWrites_ldRegK s x _)

/-- Every instruction ends in one of the three ways. -/
theorem exec_ends (h : exec i s = .next t) : Ends s i t := by
  cases i with
  | cls => exact .of_epilogue h (afterWrites_cls s)
  | ret => exact execRet_ends h
  | sys nnn => exact execSys_ends h
  | jp nnn =>
    refine .of_checkTarget h (by simp) fun he h => ?_
    obtain rfl := Host.Outcome.next.inj h
    exact .completes (.none (by simp)) (.jp he)
  | call nnn => exact execCall_ends h
  | jpReg0 nnn =>
    refine .of_checkTarget h (by simp) fun he h => ?_
    obtain rfl := Host.Outcome.next.inj h
    exact .completes (.none (by simp)) (.jpReg0 he)
  | seRegByte | sneRegByte | seRegReg | sneRegReg | skp | sknp => exact .of_skipIf h (by simp)
  | ldRegByte | addRegByte | ldRegReg | ldRegDT =>
    exact .of_epilogue h (.setReg (by simp) (by simp [mayWrite]))
  | or | and | xor => exact .of_epilogue h (.logicFlag (by simp) (by simp [mayWrite]))
  | add | sub | shr | subn | shl => exact .of_epilogue h (.setFlag (by simp) (by simp [mayWrite]))
  | ldIAddr | ldFReg => exact .of_epilogue h (.setI (by simp) (by simp [mayWrite]))
  | rnd x kk => exact .of_epilogue h (afterWrites_rnd s x kk _)
  | drw x y n => exact execDrw_ends h
  | ldRegK x => exact execLdRegK_ends h
  | ldDT x => exact .of_epilogue h (afterWrites_ldDT s x _)
  | ldST x => exact .of_epilogue h (afterWrites_ldST s x _)
  | addIReg x => exact .of_epilogue h (afterWrites_addIReg s x _ _)
  | ldBReg x =>
    exact .of_checkRange h (by simp) fun hr h => .of_epilogue h (afterWrites_ldBReg s x hr)
  | ldIReg x =>
    exact .of_checkRange h (by simp) fun hr h => .of_epilogue h (afterWrites_ldIReg s x hr)
  | ldRegI x =>
    exact .of_checkRange h (by simp) fun _ h => .of_epilogue h (afterWrites_ldRegI s x)

end

/-- Settles O48: fault entry and a move of `pc` touch no component, a blocked step the key-wait latch
alone, and the writes of an instruction lie within its row. -/
theorem instructionsWriteOnlyTabledState : Obligations.InstructionsWriteOnlyTabledState := by
  intro i s t h
  cases exec_ends h with
  | raises => exact ⟨fun c _ => .latch s _, rfl, rfl⟩
  | blocks x w =>
    refine ⟨fun c hc => ?_, rfl, rfl⟩
    have hc : c ≠ .reg x ∧ c ≠ .keyWait := by simpa [mayWrite] using hc
    exact .keyWait s w (some .needsKey) hc.2
  | completes hu _ => exact ⟨fun c hc => .trans (hu.frame c hc) (.goTo _ _), hu.config, hu.schedule⟩

end Sys2Proof.Machine
end

section
/-! The `pc` after a step of the driver (10_state.md R24). -/

namespace Sys2Proof.Machine

/-- A defined fetch with no fault latched, of a word that decodes, is what `fetches` says. -/
theorem State.fetches_of_fetch {s : State} {op : Word} {i : Instr} (hf : s.fault = none)
    (ho : s.fetch = .ok op) (hd : decode op = some i) : s.fetches i := by
  obtain ⟨he, hb, rfl⟩ := State.fetch_eq_ok.mp ho
  exact ⟨hf, ⟨he, hb⟩, hd⟩

theorem State.fetch_of_fetches {s : State} {i : Instr} (h : s.fetches i) :
    s.fetch = .ok s.fetchedWord := by
  obtain ⟨-, ⟨he, hb⟩, -⟩ := h
  exact State.fetch_eq_ok.mpr ⟨he, hb, rfl⟩

/-- At most one instruction is the next to run. -/
theorem State.fetches_unique {s : State} {i j : Instr} (hi : s.fetches i) (hj : s.fetches j) :
    i = j := by
  obtain ⟨-, -, hi⟩ := hi
  obtain ⟨-, -, hj⟩ := hj
  exact Option.some.inj (hi.symm.trans hj)

/-- Settles O57: a step that runs no instruction leaves `pc`, and so does one that raises or blocks; one
that completes moves it as `NextPc` says. -/
theorem nextPcIsOneOfFive : Obligations.NextPcIsOneOfFive := by
  intro s t hn h
  rw [step_of_driverNext hn] at h
  rcases driverStep_cases h with ⟨f, -, rfl⟩ | ⟨-, f, -, rfl⟩ | ⟨-, op, -, -, rfl⟩ |
    ⟨hf, op, i, ho, hd, h⟩
  · exact .inl rfl
  · exact .inl rfl
  · exact .inl rfl
  have hi : s.fetches i := State.fetches_of_fetch hf ho hd
  cases exec_ends h with
  | raises => exact .inl rfl
  | blocks => exact .inl rfl
  | completes hu ha =>
    cases ha with
    | advance => exact .inr (.inl rfl)
    | skip => exact .inr (.inr (.inl rfl))
    | jp => exact .inr (.inr (.inr (.inl ⟨_, .inl hi, addrWord_eq_ofNat _⟩)))
    | call => exact .inr (.inr (.inr (.inl ⟨_, .inr hi, addrWord_eq_ofNat _⟩)))
    | jpReg0 =>
      exact .inr (.inr (.inr (.inr (.inl ⟨_, hi, word_eq_ofNat (toNat_offsetTarget _ _)⟩))))
    | ret used => exact .inr (.inr (.inr (.inr (.inr ⟨hi, used, rfl⟩))))

end Sys2Proof.Machine
end

section
/-! The invariant: it holds at reset, and every step of every agent keeps it. -/

namespace Sys2Proof.Machine

section
variable {s : State}

/-- No key is waited for where `LD_reg_K` is not the next to run (R151). -/
theorem Inv.keyWait_idle (h : Inv s) (hk : ∀ x, ¬ s.fetches (.ldRegK x)) : s.keyWait = .idle := by
  by_contra hw
  obtain ⟨x, hx⟩ := h.waiting hw
  exact hk x hx

theorem Inv.keyWait_idle_of_fetches {i : Instr} (h : Inv s) (hi : s.fetches i)
    (hk : ∀ x, i ≠ .ldRegK x) : s.keyWait = .idle :=
  h.keyWait_idle fun x hx => hk x (State.fetches_unique hi hx)

theorem Inv.popEvent (h : Inv s) : Inv s.popEvent := { h with }

/-! ## The agents other than the driver -/

theorem Inv.tick (h : Inv s) (e : Nat) : Inv (s.tick e) := { h with }

/-- No transition opens a key wait. -/
@[simp] theorem keyWaitAfter_idle (onRelease : Bool) (k : KeyIx) (down : Bool) :
    keyWaitAfter onRelease k down .idle = .idle := rfl

theorem Inv.setKey (h : Inv s) (k : KeyIx) (p : Bool) : Inv (s.setKey k p) where
  __ := h
  waiting hw := h.waiting fun hi => hw (by simp [State.setKey, hi])

/-- A load leaves the reset values, and the image in memory (R200). -/
theorem Inv.loaded (s : State) {image : List Byte} (h : image.length ≤ 3584) :
    Inv (s.loaded image) where
  pcEven := by simp [State.loaded, State.reset]
  pcBound := by simp [State.loaded, State.reset]
  stackEntries := by simp [State.loaded, State.reset]
  memory := s.wf_loaded h
  latchNotLoad := by simp [State.loaded, State.reset]
  latchReported := by simp [State.loaded, State.reset]
  waiting hw := absurd rfl hw

/-! ## The driver -/

theorem Inv.reportLatched (h : Inv s) {f : Fault} (hf : s.fault = some f) :
    Inv { s with status := some (.fault f) } where
  __ := h
  latchReported g := by simp [hf]

/-- A fault latched while no key is waited for (R176). -/
theorem Inv.latch (h : Inv s) {f : Fault} (hf : f.pc? = some s.pc) (hw : s.keyWait = .idle) :
    Inv (s.latch f) where
  __ := h
  latchNotLoad n hl := by
    obtain rfl := Option.some.inj hl
    simp [Fault.pc?] at hf
  latchReported g := by simp
  waiting hn := absurd hw hn

/-- A blocked step leaves `pc` at the `LD_reg_K` word (R95, R151). -/
theorem Inv.block (h : Inv s) {x : RegIx} (hx : s.fetches (.ldRegK x)) (w : KeyWait) :
    Inv { s with keyWait := w, status := some .needsKey } where
  __ := h
  latchReported g := by simp [hx.1]
  waiting _ := ⟨x, hx⟩

/-- An instruction at a fetchable `pc` that completes leaves `pc` even and at most 0x10FE (R24, R25). -/
theorem Inv.nextPc_even_le (h : Inv s) (hp : s.fetchable) {i : Instr} {a : Word} (ha : NextPc s i a) :
    a.toNat % 2 = 0 ∧ a.toNat ≤ 0x10FE := by
  obtain ⟨he, hb⟩ := hp
  cases ha with
  | advance | skip => bv_omega
  | @jp nnn even | @call nnn even =>
    have := nnn.isLt
    exact ⟨even, by rw [toNat_addrWord]; omega⟩
  | @jpReg0 nnn even =>
    have := nnn.isLt
    have := (s.reg 0).isLt
    rw [toNat_offsetTarget] at even ⊢
    omega
  | ret used =>
    obtain ⟨he, hb⟩ := h.stackEntries ⟨s.sp.val - 1, by omega⟩
    simp only [Fin.getElem_fin] at he hb
    bv_omega

/-- Writes keep the stack entries even and at most 0xFFE: a push writes the address of a fetched word. -/
theorem AfterWrites.stackEntries {i : Instr} {u : State} (hu : AfterWrites i s u) (h : Inv s)
    (hp : s.fetchable) (k : Fin 16) : u.stack[k].toNat % 2 = 0 ∧ u.stack[k].toNat ≤ 0xFFE := by
  rcases hu.stack with hs | ⟨room, hs⟩
  · rw [hs]; exact h.stackEntries k
  · simp only [hs, Fin.getElem_fin, Vector.getElem_set]
    split
    · exact hp
    · exact h.stackEntries k

/-- Writes keep the canonical form: a store lies in memory. -/
theorem AfterWrites.mem_wf {i : Instr} {u : State} (hu : AfterWrites i s u) (h : s.mem.wf) :
    u.mem.wf := by
  rcases hu.mem with hm | ⟨bs, hb, hm⟩
  · rwa [hm]
  · rw [hm]; exact Memory.wf_writeList h hb

/-- After the writes of the instruction at `pc` no key is waited for: `LD_reg_K` completes by closing the
wait, and at any other word none was open. -/
theorem AfterWrites.keyWait_idle {i : Instr} {u : State} (hu : AfterWrites i s u) (h : Inv s)
    (hi : s.fetches i) : u.keyWait = .idle := by
  rcases hu.keyWait with ⟨hk, hs⟩ | hs
  · rw [hs]; exact h.keyWait_idle_of_fetches hi hk
  · exact hs

theorem Inv.completes (h : Inv s) {i : Instr} (hi : s.fetches i) {u : State} {a : Word}
    (hu : AfterWrites i s u) (ha : NextPc s i a) : Inv (u.goTo a) := by
  obtain ⟨hf, hp, -⟩ := id hi
  obtain ⟨he, hb⟩ := h.nextPc_even_le hp ha
  exact {
    pcEven := he
    pcBound := hb
    stackEntries := hu.stackEntries h hp
    memory := hu.mem_wf h.memory
    latchNotLoad := fun n => by simp [hu.fault, hf]
    latchReported := fun f => by simp [hu.fault, hf]
    waiting := fun hw => absurd (hu.keyWait_idle h hi) hw }

theorem Inv.exec {t : State} {i : Instr} (h : Inv s) (hi : s.fetches i) (he : exec i s = .next t) :
    Inv t := by
  cases exec_ends he with
  | raises hpc _ hk => exact h.latch hpc (h.keyWait_idle_of_fetches hi hk)
  | blocks x w => exact h.block hi w
  | completes hu ha => exact h.completes hi hu ha

theorem Inv.driverStep {t : State} (h : Inv s) (ht : driverStep s = .next t) : Inv t := by
  rcases driverStep_cases ht with ⟨f, hf, rfl⟩ | ⟨-, f, ho, rfl⟩ | ⟨-, op, ho, hd, rfl⟩ |
    ⟨hf, op, i, ho, hd, ht⟩
  · exact h.reportLatched hf
  · have hw : s.keyWait = .idle := h.keyWait_idle fun x hx => by
      rw [State.fetch_of_fetches hx] at ho
      cases ho
    rcases State.fetch_eq_error.mp ho with ⟨-, rfl⟩ | ⟨-, -, rfl⟩
    · exact h.latch rfl hw
    · exact h.latch rfl hw
  · refine h.latch rfl (h.keyWait_idle fun x hx => ?_)
    obtain ⟨-, -, rfl⟩ := State.fetch_eq_ok.mp ho
    cases hd.symm.trans hx.2.2
  · exact h.exec (State.fetches_of_fetch hf ho hd) ht

end

/-- Settles O47, agent by agent. -/
theorem stepKeepsTheInvariant : Obligations.StepKeepsTheInvariant := by
  intro s t h ht
  rcases step_cases ht with ⟨-, ht⟩ | ⟨e, -, rfl⟩ | ⟨k, p, -, rfl⟩ | ⟨image, -, hl, rfl⟩
  · exact h.popEvent.driverStep ht
  · exact h.popEvent.tick e
  · exact h.popEvent.setKey k p
  · exact .loaded _ hl

/-- Settles O46: the reset state is what a load of the empty image leaves of itself. -/
theorem invariantHoldsAtReset : Obligations.InvariantHoldsAtReset :=
  Inv.loaded State.reset (image := []) (Nat.zero_le _)

/-- The font ends below 0x050, and memory past it reads 0x00 (R51, R52). -/
theorem resetByte_past_font {a : Nat} (h : 0x050 ≤ a) : resetByte a = 0x00#8 :=
  List.getD_eq_default _ _ h

/-- Settles O45: the values stand in `State.reset`, and memory without cells reads as `resetByte`. -/
theorem resetLeavesTheTabledValues : Obligations.ResetLeavesTheTabledValues := by
  refine ⟨by simp [State.reset, State.reg], by simp [State.reset], rfl, rfl, rfl, rfl, rfl,
    by simp [State.reset], fun row col _ _ => Framebuffer.pixel_clear row col, rfl, rfl, ?_, ?_⟩
  · decide
  · exact fun a ha => resetByte_past_font ha

end Sys2Proof.Machine
end

section
/-! Memory as its reads (20_memory.md R50, R59, R62): the canonical form holds no more than the reads say,
only a store or a load moves a read, and the next fetch sees what a store left. -/

namespace Sys2Proof.Machine

/-! ## The canonical form as its reads -/

/-- Addresses that strictly rise hide no cell: each one is what its address reads as. -/
theorem Memory.read_of_mem {m : Memory} (hs : m.Pairwise fun c d => c.1 < d.1) {c : Host.Cell}
    (hc : c ∈ m) : m.read c.1 = c.2 := by
  induction m with
  | nil => cases hc
  | cons d rest ih =>
    obtain ⟨hd, hrest⟩ := List.pairwise_cons.mp hs
    rcases List.mem_cons.mp hc with rfl | hc
    · simp [Memory.read]
    · rw [Memory.read, if_neg (hd c hc).ne, ih hrest hc]

/-- An address that does not read as at reset has a cell. -/
theorem Memory.mem_of_read_ne_resetByte {m : Memory} {a : Nat} (h : m.read a ≠ resetByte a) :
    (a, m.read a) ∈ m := by
  induction m with
  | nil => exact absurd rfl h
  | cons d rest ih =>
    obtain ⟨k, v⟩ := d
    by_cases hk : k = a
    · simp [Memory.read, hk]
    · rw [Memory.read, if_neg hk] at h ⊢
      exact List.mem_cons_of_mem _ (ih h)

/-- The cells of a canonical memory are the reads that differ from the reset contents (log 8). -/
theorem Memory.mem_iff_read {m : Memory} (h : m.wf) {c : Host.Cell} :
    c ∈ m ↔ m.read c.1 = c.2 ∧ c.2 ≠ resetByte c.1 := by
  obtain ⟨hs, hcells⟩ := h
  constructor
  · exact fun hc => ⟨Memory.read_of_mem hs hc, (hcells c hc).2⟩
  · rintro ⟨hr, hne⟩
    have hc := Memory.mem_of_read_ne_resetByte (hr ▸ hne)
    rwa [hr] at hc

/-- No cell stands before itself. -/
theorem Memory.irrefl_address_lt : Std.Irrefl fun c d : Host.Cell => c.1 < d.1 :=
  ⟨fun c => Nat.lt_irrefl c.1⟩

theorem Memory.antisymm_address_lt : Std.Antisymm fun c d : Host.Cell => c.1 < d.1 :=
  ⟨fun _ _ h h' => absurd h' h.asymm⟩

/-- Settles O40: equal reads make the same cells, and a strictly rising list is fixed by its members. -/
theorem equalReadsMakeEqualMemories : Obligations.EqualReadsMakeEqualMemories := by
  intro m m' h h' hread
  have := Memory.irrefl_address_lt
  have := Memory.antisymm_address_lt
  refine h.1.eq_of_mem_iff h'.1 fun c => ?_
  rw [Memory.mem_iff_read h, Memory.mem_iff_read h', hread]

/-! ## Which steps write memory -/

/-- The rows of R36 that mark memory. -/
theorem store_of_mayWrite_mem {cfg : Config} {i : Instr} (h : mayWrite cfg i .mem = true) :
    ∃ x, i = .ldBReg x ∨ i = .ldIReg x := by
  cases i with
  | ldBReg x => exact ⟨x, .inl rfl⟩
  | ldIReg x => exact ⟨x, .inr rfl⟩
  | _ => simp [mayWrite] at h

/-- A driver's step that moves a read runs a store: the other ends of the cycle write no memory (R91). -/
theorem store_of_driverStep_read_ne {s t : State} {a : Nat} (h : driverStep s = .next t)
    (ha : t.mem.read a ≠ s.mem.read a) : ∃ x, s.fetches (.ldBReg x) ∨ s.fetches (.ldIReg x) := by
  rcases driverStep_cases h with ⟨f, -, rfl⟩ | ⟨-, f, -, rfl⟩ | ⟨-, op, -, -, rfl⟩ |
    ⟨hf, op, i, ho, hd, h⟩
  · exact absurd rfl ha
  · exact absurd rfl ha
  · exact absurd rfl ha
  · have hi : s.fetches i := State.fetches_of_fetch hf ho hd
    have hw : mayWrite s.config i .mem = true := by
      obtain ⟨frame, -, -⟩ := instructionsWriteOnlyTabledState i s t h
      by_contra hw
      exact ha (frame .mem (by simpa using hw) a)
    obtain ⟨x, rfl | rfl⟩ := store_of_mayWrite_mem hw
    · exact ⟨x, .inl hi⟩
    · exact ⟨x, .inr hi⟩

/-- Settles O49, agent by agent: the Clock and the Input source write no memory. -/
theorem onlyResetAndStoresWriteMemory : Obligations.OnlyResetAndStoresWriteMemory := by
  intro s t h a ha
  rcases step_cases h with ⟨hn, h⟩ | ⟨e, -, rfl⟩ | ⟨k, p, -, rfl⟩ | ⟨image, hn, -, -⟩
  · exact .inr ⟨hn, store_of_driverStep_read_ne (s := s.popEvent) h ha⟩
  · exact absurd rfl ha
  · exact absurd rfl ha
  · exact .inl ⟨image, hn⟩

/-! ## The fetch after a store -/

/-- A store whose digits lie in memory completes (R140, R144). -/
theorem exec_ldBReg_within {s : State} {x : RegIx} (h : s.I.toNat + 2 ≤ 0xFFF) :
    exec (.ldBReg x) s =
      .next ((s.store s.I.toNat (bcdDigits (s.reg x))).goTo (s.pc + 2#16)) :=
  checkRange_within h

/-- A dump that lies in memory completes, and `I` moves where the policy makes it (R140, R145). -/
theorem exec_ldIReg_within {s : State} {x : RegIx} (h : s.I.toNat + x.val ≤ 0xFFF) :
    exec (.ldIReg x) s =
      .next (((s.store s.I.toNat (s.regsUpTo x)).bumpI x).goTo (s.pc + 2#16)) := by
  rw [exec, execLdIReg, checkRange_within h, epilogue, State.bumpI_pc, State.store_pc]

/-- `b` is the memory a store leaves when it is the bytes stored at their places and the memory before at
every other address. -/
theorem Memory.read_writeList_eq {m : Memory} {a : Nat} {bs : List Byte} {b : Nat → Byte}
    (hin : ∀ k < bs.length, b (a + k) = bs.getD k 0x00#8)
    (hout : ∀ c, c < a ∨ a + bs.length ≤ c → b c = m.read c) (c : Nat) :
    (m.writeList a bs).read c = b c := by
  rw [Memory.read_writeList]
  split
  · next hc =>
    rw [← hin (c - a) (by omega), Nat.add_sub_of_le hc.1]
  · exact (hout c (by omega)).symm

/-- The word the next fetch reads, from the reads of memory (R53). -/
theorem State.fetchedWord_goTo_of_read {s : State} {p : Word} {b : Nat → Byte}
    (h : ∀ a, s.mem.read a = b a) :
    (s.goTo p).fetchedWord =
      BitVec.ofNat 16 ((b p.toNat).toNat * 256 + (b (p.toNat + 1)).toNat) := by
  rw [State.fetchedWord, opcodeAt_eq_ofNat, State.goTo_mem, State.goTo_pc, h, h]

/-- Settles O39: the store completes, and memory then reads as `b` at every address, so at both of the
next word. -/
theorem storedCodeIsFetchedNext : Obligations.StoredCodeIsFetchedNext := by
  intro s t x b
  constructor
  · intro hr he hin hout
    obtain rfl := Host.Outcome.next.inj ((exec_ldIReg_within hr).symm.trans he)
    refine State.fetchedWord_goTo_of_read fun a => ?_
    rw [State.bumpI_mem, State.store_mem]
    refine Memory.read_writeList_eq (fun k hk => ?_) (fun c hc => hout c ?_) a
    · rw [length_regsUpTo] at hk
      have hx : (⟨k, by omega⟩ : RegIx) ≤ x := Nat.le_of_lt_succ hk
      exact (hin _ hx).trans (getD_regsUpTo s hx).symm
    · rw [length_regsUpTo] at hc
      omega
  · intro hr he h0 h1 h2 hout
    obtain rfl := Host.Outcome.next.inj ((exec_ldBReg_within hr).symm.trans he)
    refine State.fetchedWord_goTo_of_read fun a => ?_
    rw [State.store_mem]
    refine Memory.read_writeList_eq (fun k hk => ?_) (fun c hc => hout c ?_) a
    · match k, hk with
      | 0, _ => exact h0
      | 1, _ => exact h1
      | 2, _ => exact h2
    · exact hc.imp_right Nat.lt_of_succ_le

end Sys2Proof.Machine
end

section
/-! The decoder and the encoder (30_encoding.md R71 to R81). The three formats put the fields of a
word together again; the family, the low nibble and the low byte decide the decoder's branch. -/

namespace Sys2Proof

/-! ## A word is the format of its fields -/

section
variable {w : Word} {f : BitVec 4}

/-- The family is the leading digit of the word (R71). -/
theorem toNat_fieldFam (w : Word) : (fieldFam w).toNat = w.toNat / 4096 := by
  have := w.isLt
  rw [fieldFam, toNat_nibble]; omega

theorem formatNNN_of_fields (hf : fieldFam w = f) : formatNNN f (fieldNNN w) = w := by
  apply BitVec.eq_of_toNat_eq
  rw [toNat_formatNNN, ← hf, toNat_fieldFam, toNat_fieldNNN]; omega

theorem formatXKK_of_fields {kk : Byte} (hf : fieldFam w = f) (hk : lowByte w = kk) :
    formatXKK f (fieldX w) kk = w := by
  apply BitVec.eq_of_toNat_eq
  rw [toNat_formatXKK, ← hf, ← hk, toNat_fieldFam, val_fieldX, toNat_lowByte]; omega

theorem formatXYN_of_fields {n : BitVec 4} (hf : fieldFam w = f) (hn : nibble w 0 = n) :
    formatXYN f (fieldX w) (fieldY w) n = w := by
  apply BitVec.eq_of_toNat_eq
  rw [toNat_formatXYN, ← hf, ← hn, toNat_fieldFam, val_fieldX, val_fieldY, toNat_nibble]; omega

end

/-- The address is the only freedom a word of format `NNN` has in its family. -/
theorem formatNNN_inj {f : BitVec 4} {a b : Addr} : formatNNN f a = formatNNN f b ↔ a = b := by
  refine ⟨fun h => ?_, congrArg _⟩
  rw [← fieldNNN_formatNNN f a, h, fieldNNN_formatNNN]

/-- A `SYS` is well-formed when its word is neither of the two that the decoder compares first (R75, R77). -/
theorem wf_sys_iff {a : Addr} :
    (Instr.sys a).wf = true ↔ encode (.sys a) ≠ 0x00E0#16 ∧ encode (.sys a) ≠ 0x00EE#16 := by
  have hcls : (0x00E0#16 : Word) = formatNNN 0x0#4 0x0E0#12 := by decide
  have hret : (0x00EE#16 : Word) = formatNNN 0x0#4 0x0EE#12 := by decide
  simp [Instr.wf, encode, hcls, hret, formatNNN_inj]

/-! ## The families with a sub-opcode table of their own -/

section
variable {w : Word}

theorem decode_of_arith (h : fieldFam w = 0x8#4) : decode w = decodeArith w := by
  simp [decode, decode_of_fam, h]

theorem decode_of_key (h : fieldFam w = 0xE#4) : decode w = decodeKey w := by
  simp [decode, decode_of_fam, h]

theorem decode_of_misc (h : fieldFam w = 0xF#4) : decode w = decodeMisc w := by
  simp [decode, decode_of_fam, h]

end

/-- Settles O1, by the format of the instruction: the decoder finds the family and the sub-opcode that the
encoder put there, and `SYS` alone needs its well-formedness. -/
theorem decodeOfEncodeIsTheInstruction : Obligations.DecodeOfEncodeIsTheInstruction := by
  intro i hwf
  cases i with
  | cls | ret => rfl
  | sys nnn =>
    obtain ⟨hcls, hret⟩ := wf_sys_iff.mp hwf
    rw [decode, if_neg hcls, if_neg hret]
    simp [encode]
  | ldRegReg | or | and | xor | add | sub | shr | subn | shl =>
    rw [decode_of_arith (by simp [encode])]
    simp [encode, decodeArith]
  | skp | sknp =>
    rw [decode_of_key (by simp [encode])]
    simp [encode, decodeKey]
  | ldRegDT | ldRegK | ldDT | ldST | addIReg | ldFReg | ldBReg | ldIReg | ldRegI =>
    rw [decode_of_misc (by simp [encode])]
    simp [encode, decodeMisc]
  | _ => simp [encode, decode, decode_of_fam]

/-! ## What the decoder reads is encoded as the word -/

section
variable {w : Word} {i : Instr}

theorem encode_of_decodeArith (hf : fieldFam w = 0x8#4) (h : decodeArith w = some i) :
    encode i = w ∧ i.wf = true := by
  unfold decodeArith at h
  split at h <;> cases h <;> exact ⟨formatXYN_of_fields hf ‹_›, rfl⟩

theorem encode_of_decodeKey (hf : fieldFam w = 0xE#4) (h : decodeKey w = some i) :
    encode i = w ∧ i.wf = true := by
  unfold decodeKey at h
  split at h <;> cases h <;> exact ⟨formatXKK_of_fields hf ‹_›, rfl⟩

theorem encode_of_decodeMisc (hf : fieldFam w = 0xF#4) (h : decodeMisc w = some i) :
    encode i = w ∧ i.wf = true := by
  unfold decodeMisc at h
  split at h <;> cases h <;> exact ⟨formatXKK_of_fields hf ‹_›, rfl⟩

end
/-- Settles O2, by the families: the format of the family puts the fields that were read together again. -/
theorem encodeOfDecodeIsTheWord : Obligations.EncodeOfDecodeIsTheWord := by
  intro w i h
  unfold decode at h
  split at h
  · next hcls => cases h; exact ⟨hcls.symm, rfl⟩
  split at h
  · next hret => cases h; exact ⟨hret.symm, rfl⟩
  next hcls hret =>
  split at h
  case h_1 hf =>
    cases h
    have hw : encode (.sys (fieldNNN w)) = w := formatNNN_of_fields hf
    exact ⟨hw, wf_sys_iff.mpr (by rw [hw]; exact ⟨hcls, hret⟩)⟩
  case h_2 hf | h_3 hf | h_11 hf | h_12 hf => cases h; exact ⟨formatNNN_of_fields hf, rfl⟩
  case h_4 hf | h_5 hf | h_7 hf | h_8 hf | h_13 hf => cases h; exact ⟨formatXKK_of_fields hf rfl, rfl⟩
  case h_6 hf | h_10 hf =>
    split at h
    · next hn => cases h; exact ⟨formatXYN_of_fields hf hn, rfl⟩
    · cases h
  case h_9 hf => exact encode_of_decodeArith hf h
  case h_14 hf => cases h; exact ⟨formatXYN_of_fields hf rfl, rfl⟩
  case h_15 hf => exact encode_of_decodeKey hf h
  case h_16 hf => exact encode_of_decodeMisc hf h
  case h_17 => cases h

/-! ## The opcode map as the bits it looks at -/

section
variable {w v : Word}

theorem nibble_and (w m : Word) (lo : Nat) : nibble (w &&& m) lo = nibble w lo &&& nibble m lo :=
  BitVec.extractLsb'_and

theorem lowByte_and (w m : Word) : lowByte (w &&& m) = lowByte w &&& lowByte m :=
  BitVec.extractLsb'_and

/-- A mask that keeps a digit makes it the digit of the row (R74). -/
theorem nibble_of_and {m : Word} {lo : Nat} (h : w &&& m = v) (hm : nibble m lo = 0xF#4) :
    nibble w lo = nibble v lo := by
  rw [← h, nibble_and, hm, and_nibble_ones]

theorem lowByte_of_and {m : Word} (h : w &&& m = v) (hm : lowByte m = 0xFF#8) :
    lowByte w = lowByte v := by
  rw [← h, lowByte_and, hm, and_byte_ones]

/-- The variant of a word that is neither literal is fixed by its family and, in the families that have
one, by its sub-opcode (R75). -/
theorem mnemonic_decode_congr (hw : w ≠ 0x00E0#16 ∧ w ≠ 0x00EE#16) (hv : v ≠ 0x00E0#16 ∧ v ≠ 0x00EE#16)
    (hf : fieldFam w = fieldFam v)
    (hn : fieldFam v ∈ [0x5#4, 0x8#4, 0x9#4] → nibble w 0 = nibble v 0)
    (hk : fieldFam v ∈ [0xE#4, 0xF#4] → lowByte w = lowByte v) :
    (decode w).map Instr.mnemonic = (decode v).map Instr.mnemonic := by
  simp only [decode, hw, hv, hf, if_false]
  split
  case h_6 h | h_10 h =>
    rw [hn (by simp [h])]
    split <;> rfl
  case h_9 h =>
    simp only [decodeArith, hn (by simp [h])]
    split <;> rfl
  case h_15 h =>
    simp only [decodeKey, hk (by simp [h])]
    split <;> rfl
  case h_16 h =>
    simp only [decodeMisc, hk (by simp [h])]
    split <;> rfl
  all_goals rfl

end

/-! ## The rows of the opcode map -/

theorem fieldFam_mask_of_mem : ∀ row ∈ opcodeTable, fieldFam row.mask = 0xF#4 := by decide

theorem nibble_mask_of_mem : ∀ row ∈ opcodeTable,
    fieldFam row.value ∈ [0x5#4, 0x8#4, 0x9#4] → nibble row.mask 0 = 0xF#4 := by decide

theorem lowByte_mask_of_mem : ∀ row ∈ opcodeTable,
    fieldFam row.value ∈ [0xE#4, 0xF#4] → lowByte row.mask = 0xFF#8 := by decide

/-- Only the rows of `CLS` and `RET` have a literal as their value, and those two cover nothing else. -/
theorem mask_of_literal_value : ∀ row ∈ opcodeTable,
    row.value = 0x00E0#16 ∨ row.value = 0x00EE#16 → row.mask = BitVec.allOnes 16 := by decide

theorem mnemonic_decode_value_of_mem : ∀ row ∈ opcodeTable,
    (decode row.value).map Instr.mnemonic = some row.mnemonic := by decide

theorem OpcodeRow.covers_iff {row : OpcodeRow} {w : Word} :
    row.covers w = true ↔ w &&& row.mask = row.value := by
  simp [OpcodeRow.covers]

/-- Away from the two literals the rows do not overlap: whichever covers a word bears its variant. -/
theorem mnemonic_decode_of_covers {row : OpcodeRow} {w : Word} (hw : w ≠ 0x00E0#16 ∧ w ≠ 0x00EE#16)
    (hr : row ∈ opcodeTable) (h : row.covers w = true) :
    (decode w).map Instr.mnemonic = some row.mnemonic := by
  rw [OpcodeRow.covers_iff] at h
  have hv : row.value ≠ 0x00E0#16 ∧ row.value ≠ 0x00EE#16 := by
    rw [← not_or]
    intro hlit
    rw [mask_of_literal_value row hr hlit, BitVec.and_allOnes] at h
    exact hlit.elim (h ▸ hw.1) (h ▸ hw.2)
  rw [← mnemonic_decode_value_of_mem row hr]
  exact mnemonic_decode_congr hw hv (nibble_of_and h (fieldFam_mask_of_mem row hr))
    (fun hs => nibble_of_and h (nibble_mask_of_mem row hr hs))
    (fun hs => lowByte_of_and h (lowByte_mask_of_mem row hr hs))

/-- Every instruction has its row (R74). -/
theorem encodingRow : ∀ i : Instr, Laws.EncodingRow.Statement i
  | .cls => Laws.EncodingRow.cls
  | .ret => Laws.EncodingRow.ret
  | .sys a => Laws.EncodingRow.sys a
  | .jp a => Laws.EncodingRow.jp a
  | .call a => Laws.EncodingRow.call a
  | .seRegByte x kk => Laws.EncodingRow.seRegByte x kk
  | .sneRegByte x kk => Laws.EncodingRow.sneRegByte x kk
  | .seRegReg x y => Laws.EncodingRow.seRegReg x y
  | .ldRegByte x kk => Laws.EncodingRow.ldRegByte x kk
  | .addRegByte x kk => Laws.EncodingRow.addRegByte x kk
  | .ldRegReg x y => Laws.EncodingRow.ldRegReg x y
  | .or x y => Laws.EncodingRow.or x y
  | .and x y => Laws.EncodingRow.and x y
  | .xor x y => Laws.EncodingRow.xor x y
  | .add x y => Laws.EncodingRow.add x y
  | .sub x y => Laws.EncodingRow.sub x y
  | .shr x y => Laws.EncodingRow.shr x y
  | .subn x y => Laws.EncodingRow.subn x y
  | .shl x y => Laws.EncodingRow.shl x y
  | .sneRegReg x y => Laws.EncodingRow.sneRegReg x y
  | .ldIAddr a => Laws.EncodingRow.ldIAddr a
  | .jpReg0 a => Laws.EncodingRow.jpReg0 a
  | .rnd x kk => Laws.EncodingRow.rnd x kk
  | .drw x y n => Laws.EncodingRow.drw x y n
  | .skp x => Laws.EncodingRow.skp x
  | .sknp x => Laws.EncodingRow.sknp x
  | .ldRegDT x => Laws.EncodingRow.ldRegDT x
  | .ldRegK x => Laws.EncodingRow.ldRegK x
  | .ldDT x => Laws.EncodingRow.ldDT x
  | .ldST x => Laws.EncodingRow.ldST x
  | .addIReg x => Laws.EncodingRow.addIReg x
  | .ldFReg x => Laws.EncodingRow.ldFReg x
  | .ldBReg x => Laws.EncodingRow.ldBReg x
  | .ldIReg x => Laws.EncodingRow.ldIReg x
  | .ldRegI x => Laws.EncodingRow.ldRegI x

/-- A word that decodes is covered by some row. -/
theorem exists_covers_of_decode {w : Word} {i : Instr} (h : decode w = some i) :
    ∃ row ∈ opcodeTable, row.covers w = true := by
  obtain ⟨row, hr, -, hc⟩ := encodingRow i
  obtain ⟨hw, -⟩ := encodeOfDecodeIsTheWord w i h
  rw [hw] at hc
  exact ⟨row, hr, OpcodeRow.covers_iff.mpr hc⟩

/-- Settles O3: the literals are looked up in the map; for any other word the row that is found bears the
variant, and where none is found the word is no instruction's. -/
theorem decodeTakesFirstRowOfOpcodeMap : Obligations.DecodeTakesFirstRowOfOpcodeMap := by
  intro w
  by_cases hcls : w = 0x00E0#16
  · subst hcls; decide
  by_cases hret : w = 0x00EE#16
  · subst hret; decide
  cases hfind : opcodeTable.find? fun row => row.covers w with
  | some row =>
    have hc : row.covers w = true := by simpa using List.find?_some hfind
    exact mnemonic_decode_of_covers ⟨hcls, hret⟩ (List.mem_of_find?_eq_some hfind) hc
  | none =>
    cases hdec : decode w with
    | none => rfl
    | some i =>
      obtain ⟨row, hr, hc⟩ := exists_covers_of_decode hdec
      exact absurd hc (List.find?_eq_none.mp hfind row hr)

/-! ## The words that decode to nothing -/

section
variable {w : Word}

theorem nibble_zero_eq_iff {n : BitVec 4} : nibble w 0 = n ↔ w.toNat % 16 = n.toNat := by
  rw [← BitVec.toNat_inj, toNat_nibble, pow_zero, Nat.div_one]

theorem lowByte_eq_iff {kk : Byte} : lowByte w = kk ↔ w.toNat % 256 = kk.toNat := by
  rw [← BitVec.toNat_inj, toNat_lowByte]

theorem fieldFam_eq_iff {f : BitVec 4} : fieldFam w = f ↔ w.toNat / 4096 = f.toNat := by
  rw [← BitVec.toNat_inj, toNat_fieldFam]

theorem decodeArith_eq_none_iff :
    decodeArith w = none ↔ w.toNat % 16 ∈ [0x8, 0x9, 0xA, 0xB, 0xC, 0xD, 0xF] := by
  unfold decodeArith
  split
  case h_10 =>
    simp_all [nibble_zero_eq_iff]
    omega
  all_goals next hn => simp [nibble_zero_eq_iff.mp hn]

theorem decodeKey_eq_none_iff : decodeKey w = none ↔ w.toNat % 256 ∉ [0x9E, 0xA1] := by
  unfold decodeKey
  split
  case h_3 => simp_all [lowByte_eq_iff]
  all_goals next hk => simp [lowByte_eq_iff.mp hk]

theorem decodeMisc_eq_none_iff :
    decodeMisc w = none ↔
      w.toNat % 256 ∉ [0x07, 0x0A, 0x15, 0x18, 0x1E, 0x29, 0x33, 0x55, 0x65] := by
  unfold decodeMisc
  split
  case h_10 => simp_all [lowByte_eq_iff]
  all_goals next hk => simp [lowByte_eq_iff.mp hk]

/-- Five families have words that decode to nothing, each by its sub-opcode (R78). -/
theorem decode_eq_none_iff :
    decode w = none ↔
      (fieldFam w = 0x5#4 ∧ nibble w 0 ≠ 0x0#4) ∨ (fieldFam w = 0x8#4 ∧ decodeArith w = none) ∨
      (fieldFam w = 0x9#4 ∧ nibble w 0 ≠ 0x0#4) ∨ (fieldFam w = 0xE#4 ∧ decodeKey w = none) ∨
      (fieldFam w = 0xF#4 ∧ decodeMisc w = none) := by
  unfold decode
  split
  · next hcls => subst hcls; decide
  split
  · next hret => subst hret; decide
  split
  case h_17 =>
    have := w.isLt
    simp_all [fieldFam_eq_iff]
    omega
  all_goals next hf => simp [hf]

end

/-- Settles O4: the families and sub-opcodes of `decode_eq_none_iff` as numbers. -/
theorem unknownWordsByFamily : Obligations.UnknownWordsByFamily := by
  intro w
  rw [decode_eq_none_iff, decodeArith_eq_none_iff, decodeKey_eq_none_iff, decodeMisc_eq_none_iff]
  simp only [fieldFam_eq_iff, nibble_zero_eq_iff, BitVec.toNat_ofNat, ne_eq]

/-- Settles O5: each word is run through the decoder. -/
theorem sampleWordsDecode : Obligations.SampleWordsDecode := by
  unfold Obligations.SampleWordsDecode
  decide

/-- Settles O6, field by field. -/
theorem operandFieldsAtFixedBits : Obligations.OperandFieldsAtFixedBits := fun w =>
  ⟨toNat_fieldFam w, val_fieldX w, val_fieldY w, val_fieldN w, toNat_lowByte w, toNat_fieldNNN w⟩

end Sys2Proof
end

section
/-! The fetch-decode-execute cycle (40_step_cycle.md R91): every instruction and every action answers
(R98), and what the driver's step is at each of its ends. -/

namespace Sys2Proof.Machine

/-! ## Every instruction answers -/

theorem exists_next_epilogue (s : State) : ∃ t, epilogue s = .next t := ⟨_, rfl⟩

theorem exists_next_skipIf (c : Bool) (s : State) : ∃ t, skipIf c s = .next t := ⟨_, rfl⟩

theorem exists_next_checkTarget {op a : Word} {s : State} {k : Result}
    (hk : ∃ t, k = .next t) :
    ∃ t, checkTarget op a s k = .next t := by
  unfold checkTarget
  split
  · exact ⟨_, rfl⟩
  · exact hk

theorem exists_next_checkRange {op : Word} {n : Nat} {s : State} {k : Result}
    (hk : ∃ t, k = .next t) :
    ∃ t, checkRange op n s k = .next t := by
  unfold checkRange
  split
  · exact ⟨_, rfl⟩
  · exact hk

theorem exists_next_execRet (s : State) : ∃ t, execRet s = .next t := by
  unfold execRet
  split
  · exact ⟨_, rfl⟩
  · exact ⟨_, rfl⟩

theorem exists_next_execCall (nnn : Addr) (s : State) : ∃ t, execCall nnn s = .next t := by
  refine exists_next_checkTarget ?_
  split
  · exact ⟨_, rfl⟩
  · exact ⟨_, rfl⟩

theorem exists_next_execDrw (x y : RegIx) (n : RowCount) (s : State) :
    ∃ t, execDrw x y n s = .next t := by
  unfold execDrw
  split
  · exact exists_next_epilogue _
  · exact exists_next_checkRange (exists_next_epilogue _)

theorem exists_next_execLdRegK (x : RegIx) (s : State) : ∃ t, execLdRegK x s = .next t := by
  unfold execLdRegK
  cases s.keyWait with
  | idle | awaitDown | awaitUp => exact ⟨_, rfl⟩
  | done => exact exists_next_epilogue _

theorem exists_next_exec (i : Instr) (s : State) : ∃ t, exec i s = .next t := by
  cases i with
  | ret => exact exists_next_execRet s
  | sys => exact ⟨_, rfl⟩
  | call nnn => exact exists_next_execCall nnn s
  | jp | jpReg0 => exact exists_next_checkTarget ⟨_, rfl⟩
  | seRegByte | sneRegByte | seRegReg | sneRegReg | skp | sknp => exact exists_next_skipIf _ s
  | drw x y n => exact exists_next_execDrw x y n s
  | ldRegK x => exact exists_next_execLdRegK x s
  | ldBReg | ldIReg | ldRegI => exact exists_next_checkRange (exists_next_epilogue _)
  | _ => exact exists_next_epilogue _

theorem exists_next_driverStep (s : State) : ∃ t, driverStep s = .next t := by
  unfold driverStep
  split
  · exact ⟨_, rfl⟩
  split
  · exact ⟨_, rfl⟩
  split
  · exact ⟨_, rfl⟩
  · exact exists_next_exec _ s

theorem load_of_too_long {image : List Byte} (h : 3584 < image.length) :
    load image s = .fault (.loadError image.length) :=
  if_pos h

/-- Settles O11: of the agents' actions only a load can end in something else than a next state, and it
does so exactly past 3584 bytes. -/
theorem everyStepAnswers : Obligations.EveryStepAnswers := by
  refine ⟨exists_next_exec, fun s => ?_⟩
  unfold step
  cases s.nextEvent with
  | step => exact .inl (exists_next_driverStep _)
  | tick | setKey => exact .inl ⟨_, rfl⟩
  | reset image =>
    rcases Nat.lt_or_ge 3584 image.length with hl | hl
    · exact .inr ⟨image, rfl, hl, load_of_too_long hl⟩
    · exact .inl ⟨_, load_eq_next.mpr ⟨hl, rfl⟩⟩

/-! ## The ends of the driver's step -/

section
variable {s : State}

theorem driverStep_of_fault {f : Fault} (h : s.fault = some f) : driverStep s = reportLatched f s := by
  simp [driverStep, h]

theorem driverStep_of_fetch_error {f : Fault} (hn : s.fault = none) (h : s.fetch = .error f) :
    driverStep s = raise f s := by
  simp [driverStep, hn, h]

theorem driverStep_of_unknown (hn : s.fault = none) (hf : s.fetchable)
    (hd : decode s.fetchedWord = none) :
    driverStep s = raise (.decodeError s.pc s.fetchedWord) s := by
  obtain ⟨he, hb⟩ := hf
  have ho : s.fetch = .ok s.fetchedWord := State.fetch_eq_ok.mpr ⟨he, hb, rfl⟩
  simp [driverStep, hn, ho, hd]

/-- A `Step` that fetches `i` is the rule of `i` on the state without the action taken (R91; log 3). -/
theorem step_of_fetches {i : Instr} (hn : s.driverNext) (h : s.fetches i) :
    step s = exec i s.popEvent :=
  (step_of_driverNext hn).trans (driverStep_of_fetches (s := s.popEvent) h)

end

/-- Settles O7: the two bytes of the hypothesis are the fetched word, and it is the driver's turn in
both cases. -/
theorem stepRunsTheDecodedInstruction : Obligations.StepRunsTheDecodedInstruction := by
  intro s i hn he hb hd
  have hi : s.fetches i := ⟨hn, ⟨he, hb⟩, by rwa [State.fetchedWord, opcodeAt_eq_ofNat]⟩
  constructor
  · intro hs
    rw [step_of_idle hs, driverStep_of_fetches hi]
  · intro rest hs
    have hnext : s.driverNext := by simp [State.driverNext, State.nextEvent, hs]
    have hpop : s.popEvent = { s with schedule := rest } := by simp [State.popEvent, hs]
    rw [step_of_fetches hnext hi, hpop]

/-- Settles O8, end by end of the cycle. -/
theorem stepWithoutInstruction : Obligations.StepWithoutInstruction := by
  intro s hnext
  rw [step_of_driverNext hnext]
  refine ⟨fun f hf => ?_, fun hn ho => ?_, fun hn he hb => ?_, fun hn hf hd => ?_⟩
  · exact driverStep_of_fault (s := s.popEvent) hf
  · exact driverStep_of_fetch_error (s := s.popEvent) hn (State.fetch_eq_error.mpr (.inl ⟨ho, rfl⟩))
  · exact driverStep_of_fetch_error (s := s.popEvent) hn
      (State.fetch_eq_error.mpr (.inr ⟨he, hb, rfl⟩))
  · exact driverStep_of_unknown (s := s.popEvent) hn hf hd

/-- Settles O32: a step that runs no instruction reports a fault, and of the three ends of an instruction
only `blocks` reports `NeedsKey`. -/
theorem onlyLdRegKBlocks : Obligations.OnlyLdRegKBlocks := by
  intro s t hnext h ht
  rw [step_of_driverNext hnext] at h
  rcases driverStep_cases h with ⟨f, -, rfl⟩ | ⟨-, f, -, rfl⟩ | ⟨-, op, -, -, rfl⟩ |
    ⟨hf, op, i, ho, hd, h⟩
  · simp at ht
  · simp at ht
  · simp at ht
  · have hi : s.fetches i := State.fetches_of_fetch hf ho hd
    cases exec_ends h with
    | raises => simp at ht
    | blocks x w => exact ⟨⟨x, hi⟩, rfl⟩
    | completes => simp at ht

end Sys2Proof.Machine
end

section
/-! How an instruction that completes moves `pc`: the default epilogue (40_step_cycle.md R92), the skips
(R93) and the jump to itself (R99). -/

namespace Sys2Proof.Machine

/-! ## The default epilogue -/

section
variable {s t : State}

theorem pc_of_epilogue {u : State} (h : epilogue u = .next t) (hu : u.pc = s.pc) :
    t.pc = s.pc + 2#16 := by
  rw [← epilogue_eq_next.mp h, State.goTo_pc, hu]

/-- An instruction that completes passed its range check (R96, R140). -/
theorem eq_next_of_checkRange {op : Word} {n : Nat} {k : Result} (h : checkRange op n s k = .next t)
    (ht : t.status = some .completed) : k = .next t := by
  rcases checkRange_cases h with ⟨-, rfl⟩ | ⟨-, h⟩
  · simp at ht
  · exact h

theorem pc_of_execSys {nnn : Addr} (h : execSys nnn s = .next t) (ht : t.status = some .completed) :
    t.pc = s.pc + 2#16 := by
  obtain rfl := Host.Outcome.next.inj h
  split at ht
  · next hnop => rw [if_pos hnop, State.goTo_pc]
  · simp at ht

theorem pc_of_drawSprite {x y : RegIx} {n : RowCount} (h : drawSprite x y n s = .next t) :
    t.pc = s.pc + 2#16 :=
  pc_of_epilogue h rfl

theorem pc_of_execDrw {x y : RegIx} {n : RowCount} (h : execDrw x y n s = .next t)
    (ht : t.status = some .completed) : t.pc = s.pc + 2#16 := by
  unfold execDrw at h
  split at h
  · exact pc_of_drawSprite h
  · exact pc_of_drawSprite (eq_next_of_checkRange h ht)

theorem pc_of_execLdRegK {x : RegIx} (h : execLdRegK x s = .next t)
    (ht : t.status = some .completed) : t.pc = s.pc + 2#16 := by
  unfold execLdRegK at h
  split at h
  · simp [← block_eq_next.mp h] at ht
  · simp [← block_eq_next.mp h] at ht
  · simp [← block_eq_next.mp h] at ht
  · exact pc_of_epilogue h rfl

end

/-- Settles O10: the writes before the epilogue leave `pc` alone, and the ends other than the epilogue do
not report `Completed`. -/
theorem defaultEpilogueAdvancesByTwo : Obligations.DefaultEpilogueAdvancesByTwo := by
  intro i s t hi h ht
  cases i with
  | ret | jp | call | jpReg0 | seRegByte | sneRegByte | seRegReg | sneRegReg | skp | sknp =>
    simp [Instr.hasDefaultEpilogue] at hi
  | sys => exact pc_of_execSys h ht
  | drw => exact pc_of_execDrw h ht
  | ldRegK => exact pc_of_execLdRegK h ht
  | ldBReg | ldIReg | ldRegI => exact pc_of_epilogue (eq_next_of_checkRange h ht) (by simp)
  | _ => exact pc_of_epilogue h (by simp)

/-! ## The skips -/

section
variable {i : Instr} {s : State} {c : Bool} {p : Prop} [Decidable p]

theorem jumpsTo_of_skipIf (h : exec i s = skipIf c s) (hc : c = true ↔ p) :
    JumpsTo i s (if p then s.pc + 4#16 else s.pc + 2#16) := by
  rw [← if_congr hc rfl rfl]
  exact h

theorem jumpsTo_of_skipIf_not (h : exec i s = skipIf c s) (hc : c = true ↔ ¬ p) :
    JumpsTo i s (if p then s.pc + 2#16 else s.pc + 4#16) := by
  rw [← ite_not]
  exact jumpsTo_of_skipIf h hc

end

/-- Settles O22: `SE` skips on equality, `SNE` on its negation. -/
theorem registerSkipsMoveOnlyPc : Obligations.RegisterSkipsMoveOnlyPc := fun _ _ _ _ =>
  ⟨jumpsTo_of_skipIf rfl beq_iff_eq, jumpsTo_of_skipIf_not rfl bne_iff_ne,
    jumpsTo_of_skipIf rfl beq_iff_eq, jumpsTo_of_skipIf_not rfl bne_iff_ne⟩

/-- Settles O23: the key tested is `k`. -/
theorem keySkipsMoveOnlyPc : Obligations.KeySkipsMoveOnlyPc := by
  intro s x k hk
  obtain rfl : lowNibble (s.reg x) = k := Fin.ext ((val_lowNibble _).trans hk.symm)
  exact ⟨jumpsTo_of_skipIf rfl Iff.rfl, jumpsTo_of_skipIf_not rfl (by simp)⟩

/-! ## The jump to itself -/

theorem exec_jp_of_even {s : State} {nnn : Addr} (h : (addrWord nnn).toNat % 2 = 0) :
    exec (.jp nnn) s = .next (s.goTo (addrWord nnn)) :=
  checkTarget_even h

/-- Settles O58: the target is `pc`, which is even because it was fetched from. -/
theorem selfJumpIsAFixedPoint : Obligations.SelfJumpIsAFixedPoint := by
  intro s nnn hnext hi hpc
  have ht : addrWord nnn = s.pc := BitVec.eq_of_toNat_eq ((toNat_addrWord nnn).trans hpc)
  have ⟨_, ⟨he, _⟩, _⟩ := hi
  have hstep : step s = .next { s.popEvent with status := some .completed } := by
    rw [step_of_fetches hnext hi, exec_jp_of_even (by rwa [ht]), ht]
    rfl
  refine ⟨hstep, fun hs hst => ?_⟩
  rw [hstep, State.popEvent_of_idle hs, ← hst]

end Sys2Proof.Machine
end

section
/-! The jumps, `CALL`, `RET` and `SYS` (41_control_flow.md R110 to R114, R119): where a checked target leads,
what a push and a pop leave, and the two ends of `SYS`. -/

namespace Sys2Proof.Machine

/-- The word of an instruction of format `NNN` as a number (R72). -/
theorem formatNNN_eq_ofNat (f : BitVec 4) (a : Addr) :
    formatNNN f a = BitVec.ofNat 16 (f.toNat * 4096 + a.toNat) :=
  word_eq_ofNat (toNat_formatNNN f a)

/-! ## A checked target -/

theorem checkTarget_odd {op a : Word} {s : State} {k : Result} (h : a.toNat % 2 = 1) :
    checkTarget op a s k = raise (.misalignedTarget s.pc (some op) a) s :=
  if_pos h

section
variable {i : Instr} {s : State} {op a : Word} {n : Nat}

/-- An instruction that goes where it checked goes to the number `n` of an even target (R112, R114). -/
theorem jumpsTo_of_even (h : exec i s = checkTarget op a s (.next (s.goTo a))) (ha : a.toNat = n)
    (he : n % 2 = 0) : JumpsTo i s (BitVec.ofNat 16 n) := by
  rw [← word_eq_ofNat ha, JumpsTo, h, checkTarget_even (by rwa [ha]), State.goTo]

/-- An instruction that checks its target first latches an odd one, whatever it does with an even one
(R119). -/
theorem latches_of_odd {k : Result} (h : exec i s = checkTarget (encode i) a s k)
    (hop : encode i = op) (ha : a.toNat = n) (ho : n % 2 = 1) :
    Latches i s (.misalignedTarget s.pc (some op) (BitVec.ofNat 16 n)) := by
  rw [← word_eq_ofNat ha, ← hop]
  exact latches_of_raise (h.trans (checkTarget_odd (by rwa [ha])))

end

/-- Settles O15: both instructions go where they checked. -/
theorem jumpsGoToEvenTargets : Obligations.JumpsGoToEvenTargets := fun s nnn =>
  ⟨jumpsTo_of_even rfl (toNat_addrWord nnn), jumpsTo_of_even rfl (toNat_offsetTarget nnn s)⟩

/-- Settles O16: the check comes before anything else, so before the room on the stack. -/
theorem oddTargetsAreLatched : Obligations.OddTargetsAreLatched := by
  intro s nnn
  refine ⟨fun ho => ⟨?_, ?_⟩, fun ho => ?_⟩
  · exact latches_of_odd rfl (formatNNN_eq_ofNat 0x1#4 nnn) (toNat_addrWord nnn) ho
  · exact latches_of_odd rfl (formatNNN_eq_ofNat 0x2#4 nnn) (toNat_addrWord nnn) ho
  · exact latches_of_odd rfl (formatNNN_eq_ofNat 0xB#4 nnn) (toNat_offsetTarget nnn s) ho

/-! ## The return stack -/

section
variable {s : State}

theorem State.push_of_room (a : Word) (room : s.sp.val < 16) :
    s.push a = some { s with
      stack := s.stack.set s.sp.val a room
      sp := ⟨s.sp.val + 1, Nat.succ_lt_succ room⟩ } :=
  dif_pos room

theorem State.pop_of_used (used : 0 < s.sp.val) :
    s.pop = some (s.stack[s.sp.val - 1], { s with
      sp := ⟨s.sp.val - 1, Nat.lt_of_le_of_lt (Nat.sub_le _ _) s.sp.isLt⟩ }) :=
  dif_pos used

/-- A `CALL` to an even target is decided by its push (R113). -/
theorem exec_call_of_push {nnn : Addr} {s' : State} (he : nnn.toNat % 2 = 0)
    (h : s.push s.pc = some s') : exec (.call nnn) s = .next (s'.goTo (addrWord nnn)) := by
  rw [exec, execCall, checkTarget_even (by rwa [toNat_addrWord]), h]

theorem exec_call_of_full {nnn : Addr} (he : nnn.toNat % 2 = 0) (h : s.push s.pc = none) :
    exec (.call nnn) s = raise (.stackOverflow s.pc (encode (.call nnn))) s := by
  rw [exec, execCall, checkTarget_even (by rwa [toNat_addrWord]), h]

/-- A `RET` with an entry in use resumes after the word the entry names (R111). -/
theorem exec_ret_of_used (used : 0 < s.sp.val) :
    exec .ret s = .next { s with
      sp := ⟨s.sp.val - 1, Nat.lt_of_le_of_lt (Nat.sub_le _ _) s.sp.isLt⟩
      pc := s.stack[s.sp.val - 1] + 2#16
      status := some .completed } := by
  rw [exec, execRet, State.pop_of_used used]
  rfl

theorem exec_ret_of_empty (h : s.pop = none) :
    exec .ret s = raise (.stackUnderflow s.pc (encode .ret)) s := by
  rw [exec, execRet, h]

/-- A stack entry is the even address of a fetched word, so the word after it is even and at most 0x1000
(R25, R111). -/
theorem Inv.afterEntry_even_le (h : Inv s) (used : 0 < s.sp.val) :
    (s.stack[s.sp.val - 1] + 2#16).toNat % 2 = 0 ∧
      (s.stack[s.sp.val - 1] + 2#16).toNat ≤ 0x1000 := by
  obtain ⟨he, hb⟩ := h.stackEntries ⟨s.sp.val - 1, by omega⟩
  simp only [Fin.getElem_fin] at he hb
  bv_omega

end

/-- Settles O17: the stack after the push is read entry by entry. -/
theorem callPushesItsOwnAddress : Obligations.CallPushesItsOwnAddress := by
  intro s nnn room he
  refine ⟨s.stack.set s.sp.val s.pc room, ?_, fun k => ?_⟩
  · rw [exec_call_of_push he (State.push_of_room s.pc room), addrWord_eq_ofNat, State.goTo]
  · simp only [Fin.getElem_fin, Vector.getElem_set, eq_comm]

/-- Settles O18: with sixteen entries in use there is no push. -/
theorem callOnFullStackIsLatched : Obligations.CallOnFullStackIsLatched := by
  intro s nnn he hfull
  exact formatNNN_eq_ofNat 0x2#4 nnn ▸
    latches_of_raise (exec_call_of_full he (State.push_eq_none.mpr hfull))

/-- Settles O19: `sp` decides whether there is a pop, and the invariant speaks of the popped entry. -/
theorem retResumesAfterTheCall : Obligations.RetResumesAfterTheCall := by
  intro s
  refine ⟨fun hempty => ?_, fun used => ⟨exec_ret_of_used used, fun h => h.afterEntry_even_le used⟩⟩
  exact latches_of_raise (exec_ret_of_empty (State.pop_eq_none.mpr hempty))

/-- Settles O20: the entry that `RET` pops is the one that `CALL` pushed. -/
theorem callThenRetComesBack : Obligations.CallThenRetComesBack := by
  intro s nnn he room
  obtain ⟨stack', hcall, hentries⟩ := callPushesItsOwnAddress s nnn room he
  have hpushed : stack'[s.sp.val] = s.pc := (hentries ⟨s.sp.val, room⟩).trans (if_pos rfl)
  exact ⟨_, _, hcall, exec_ret_of_used (Nat.succ_pos _), congrArg (· + 2#16) hpushed, rfl, rfl,
    fun _ => rfl⟩

/-! ## `SYS` -/

section
variable {s : State} {nnn : Addr}

theorem exec_sys_of_nop (h : s.config.sysIsNop = true) :
    exec (.sys nnn) s = .next (s.goTo (s.pc + 2#16)) := by
  rw [exec, execSys, if_pos h]

theorem exec_sys_of_not_nop (h : s.config.sysIsNop = false) :
    exec (.sys nnn) s = raise (.decodeError s.pc (encode (.sys nnn))) s := by
  rw [exec, execSys, if_neg (Bool.eq_false_iff.mp h), raise]

end

/-- Settles O21: the two policies; the well-formedness of the word decides neither. -/
theorem sysFollowsThePolicy : Obligations.SysFollowsThePolicy := by
  intro s nnn _
  have hword : encode (.sys nnn) = BitVec.ofNat 16 nnn.toNat :=
    word_eq_ofNat (by simp [encode, toNat_formatNNN])
  refine ⟨exec_sys_of_nop, fun h => ?_⟩
  rw [← hword]
  exact latches_of_raise (exec_sys_of_not_nop h)

end Sys2Proof.Machine
end

section
/-! Register loads, arithmetic, logic, shifts and `RND` (42_alu.md R120 to R133): the three shapes of their
writes, the results and flags as numbers, and the draw. -/

namespace Sys2Proof.Machine

/-! ## The three shapes of the writes (R96) -/

section
variable {i : Instr} {s : State} {x : RegIx} {v b : Byte}

/-- An instruction whose one write is `V[x] <- v`. -/
theorem completesWithRegs_of_setReg (h : exec i s = epilogue (s.setReg x v)) (hv : v = b) :
    CompletesWithRegs i s (fun r => if r = x then b else s.reg r) :=
  completesWithRegs_of_epilogue h rfl fun r => by rw [State.reg_setReg, hv]

/-- An instruction that writes `V[x]` and then VF: at x = 15 the flag stays (D7). -/
theorem completesWithRegs_of_setFlag {c : Bool} {f : Byte}
    (h : exec i s = epilogue ((s.setReg x v).setFlag c)) (hv : v = b)
    (hf : (if c then 0x01#8 else 0x00#8) = f) :
    CompletesWithRegs i s (fun r => if r = 15 then f else if r = x then b else s.reg r) :=
  completesWithRegs_of_epilogue h rfl fun r => by rw [State.reg_setFlag, State.reg_setReg, hv, hf]

/-- An instruction that writes `V[x]` and then zeroes VF if `LOGIC_RESETS_VF` (R124 to R126, D18). -/
theorem completesWithRegs_of_logicFlag (h : exec i s = epilogue (s.setReg x v).logicFlag) :
    CompletesWithRegs i s (fun r =>
      if r = 15 ∧ s.config.logicResetsVF = true then 0x00#8 else if r = x then v else s.reg r) :=
  completesWithRegs_of_epilogue h (State.logicFlag_eq _) fun r => by
    rw [State.reg_logicFlag, State.reg_setReg, State.setReg_config]

end

/-! ## Results as numbers -/

theorem byte_eq_ofNat {a : Byte} {n : Nat} (h : a.toNat = n) : a = BitVec.ofNat 8 n := by
  rw [← h, BitVec.ofNat_toNat, BitVec.setWidth_eq]

section
variable (a b : Byte)

theorem byte_add_eq_ofNat : a + b = BitVec.ofNat 8 ((a.toNat + b.toNat) % 256) :=
  byte_eq_ofNat (BitVec.toNat_add a b)

theorem byte_sub_eq_ofNat : a - b = BitVec.ofNat 8 ((a.toNat + 256 - b.toNat) % 256) := by
  refine byte_eq_ofNat ?_
  rw [BitVec.toNat_sub]
  omega

theorem byte_shiftRight_one_eq_ofNat : a >>> 1 = BitVec.ofNat 8 (a.toNat / 2) :=
  byte_eq_ofNat (by rw [BitVec.toNat_ushiftRight, Nat.shiftRight_eq_div_pow, Nat.pow_one])

theorem byte_shiftLeft_one_eq_ofNat : a <<< 1 = BitVec.ofNat 8 (a.toNat * 2 % 256) :=
  byte_eq_ofNat (by rw [BitVec.toNat_shiftLeft, Nat.shiftLeft_eq, Nat.pow_one])

/-! ## Flags as numbers -/

theorem carryOut_flag :
    (if carryOut a b then 0x01#8 else 0x00#8) =
      if 255 < a.toNat + b.toNat then 0x01#8 else 0x00#8 := by
  simp only [carryOut, decide_eq_true_eq]

/-- There is a borrow exactly when the subtrahend is the greater (R120). -/
theorem noBorrow_flag :
    (if noBorrow a b then 0x01#8 else 0x00#8) =
      if a.toNat < b.toNat then 0x00#8 else 0x01#8 := by
  simp only [noBorrow, decide_eq_true_eq, ← Nat.not_lt, ite_not]

theorem flag_eq_ofNat (c : Bool) : (if c then 0x01#8 else 0x00#8) = BitVec.ofNat 8 c.toNat := by
  cases c <;> rfl

theorem bitOutRight_flag :
    (if bitOutRight a then 0x01#8 else 0x00#8) = BitVec.ofNat 8 (a.toNat % 2) := by
  rw [flag_eq_ofNat, bitOutRight, BitVec.getLsbD, Nat.toNat_testBit, Nat.pow_zero, Nat.div_one]

/-- Bit 7 is the highest bit of a byte, so the quotient needs no reduction. -/
theorem bitOutLeft_flag :
    (if bitOutLeft a then 0x01#8 else 0x00#8) = BitVec.ofNat 8 (a.toNat / 128) := by
  have hhalf : a.toNat / 128 < 2 := Nat.div_lt_of_lt_mul a.isLt
  rw [flag_eq_ofNat, bitOutLeft, BitVec.getLsbD, Nat.toNat_testBit, Nat.mod_eq_of_lt hhalf]

end

/-- Settles O25: a bitwise operation combines its operands bit by bit, and the flag comes after it. -/
theorem logicCombinesEveryBit : Obligations.LogicCombinesEveryBit := by
  intro s x y
  refine ⟨s.reg x &&& s.reg y, s.reg x ||| s.reg y, s.reg x ^^^ s.reg y, fun b _ => ?_, ?_, ?_, ?_⟩
  · exact ⟨BitVec.getLsbD_and, BitVec.getLsbD_or, BitVec.getLsbD_xor⟩
  · exact completesWithRegs_of_logicFlag rfl
  · exact completesWithRegs_of_logicFlag rfl
  · exact completesWithRegs_of_logicFlag rfl

/-- Settles O26: the sum is written before the carry. -/
theorem addWritesSumThenCarry : Obligations.AddWritesSumThenCarry := fun _ _ _ =>
  completesWithRegs_of_setFlag rfl (byte_add_eq_ofNat _ _) (carryOut_flag _ _)

/-- Settles O27: `SUBN` is `SUB` with its operands exchanged. -/
theorem subtractionsWriteNotBorrow : Obligations.SubtractionsWriteNotBorrow := fun _ _ _ =>
  ⟨completesWithRegs_of_setFlag rfl (byte_sub_eq_ofNat _ _) (noBorrow_flag _ _),
    completesWithRegs_of_setFlag rfl (byte_sub_eq_ofNat _ _) (noBorrow_flag _ _)⟩

/-- Settles O28: the source is read before the result is written, and the bit comes from the source. -/
theorem shiftsWriteTheBitShiftedOut : Obligations.ShiftsWriteTheBitShiftedOut := by
  intro s x y src hsrc
  obtain rfl : src = shiftSource x y s := hsrc
  exact ⟨completesWithRegs_of_setFlag rfl (byte_shiftRight_one_eq_ofNat _) (bitOutRight_flag _),
    completesWithRegs_of_setFlag rfl (byte_shiftLeft_one_eq_ofNat _) (bitOutLeft_flag _)⟩

/-- Settles O24: each instruction ends with the one write of `V[x]`. -/
theorem loadsWriteOnlyTheirRegister : Obligations.LoadsWriteOnlyTheirRegister := fun _ _ _ _ =>
  ⟨completesWithRegs_of_setReg rfl rfl, completesWithRegs_of_setReg rfl (byte_add_eq_ofNat _ _),
    completesWithRegs_of_setReg rfl rfl⟩

/-! ## The draw -/

/-- With no byte supplied the draw is the free value (log 5). -/
theorem State.draw_of_free {s : State} (h : s.draws = []) : s.draw = Config.randomByte s.drawCount := by
  rw [State.draw, h]

/-- Settles O29: `RND` writes `V[x]` from the draw that the state held before the draw was consumed. -/
theorem rndMasksTheDraw : Obligations.RndMasksTheDraw := by
  intro s x kk
  refine ⟨s.draw, (s.setReg x (s.draw &&& kk)).V, rfl, fun r => ?_, fun c rest h => ?_, fun h => ?_⟩
  · exact State.reg_setReg s x r (s.draw &&& kk)
  · exact State.draw_of_supplied h
  · exact State.draw_of_free h

end Sys2Proof.Machine
end

section
/-! The index register and memory (43_index_memory.md R140 to R146): the words of the memory instructions,
a range check that fails, the bytes a store leaves, and what each instruction writes to `I`. -/

namespace Sys2Proof.Machine

/-! ## The words of the memory instructions -/

/-- The word of an instruction of format `X` or `XKK` as a number (R72). -/
theorem formatXKK_eq_ofNat (f : BitVec 4) (x : RegIx) (kk : Byte) :
    formatXKK f x kk = BitVec.ofNat 16 (f.toNat * 4096 + kk.toNat + 256 * x.val) :=
  word_eq_ofNat (by rw [toNat_formatXKK]; omega)

/-- The word of an instruction of format `XYN` as a number (R72). -/
theorem formatXYN_eq_ofNat (f : BitVec 4) (x y : RegIx) (n : BitVec 4) :
    formatXYN f x y n =
      BitVec.ofNat 16 (f.toNat * 4096 + 256 * x.val + 16 * y.val + n.toNat) :=
  word_eq_ofNat (by rw [toNat_formatXYN]; omega)

/-! ## A range check that fails -/

theorem checkRange_past {op : Word} {n : Nat} {s : State} {k : Result}
    (h : 0xFFF < s.I.toNat + n) :
    checkRange op n s k = raise (.memOutOfRange s.pc op (max s.I.toNat 0x1000)) s :=
  if_pos h

/-- An instruction that checks its range first latches a range past 0xFFF, whatever it does with one
inside (R96, R140). -/
theorem latches_of_past {i : Instr} {s : State} {op : Word} {n : Nat} {k : Result}
    (h : exec i s = checkRange (encode i) n s k) (hop : encode i = op)
    (hpast : 0xFFF < s.I.toNat + n) :
    Latches i s (.memOutOfRange s.pc op (max s.I.toNat 0x1000)) := by
  rw [← hop]
  exact latches_of_raise (h.trans (checkRange_past hpast))

/-- A `DRW` with a row to read checks the range of its sprite first (R161). -/
theorem exec_drw_of_rows {s : State} {x y : RegIx} {n : RowCount} (h : 0 < n.val) :
    exec (.drw x y n) s =
      checkRange (encode (.drw x y n)) (n.val - 1) s (drawSprite x y n s) :=
  if_neg h.ne'

/-- Settles O38: each of the four instructions checks its range before it reads or writes anything. -/
theorem accessPastMemoryIsLatched : Obligations.AccessPastMemoryIsLatched := by
  intro s x y n
  refine ⟨fun h => ?_, fun h => ⟨?_, ?_⟩, fun hn h => ?_⟩
  · exact latches_of_past rfl (formatXKK_eq_ofNat 0xF#4 x 0x33#8) h
  · exact latches_of_past rfl (formatXKK_eq_ofNat 0xF#4 x 0x55#8) h
  · exact latches_of_past rfl (formatXKK_eq_ofNat 0xF#4 x 0x65#8) h
  · exact latches_of_past (exec_drw_of_rows hn) (formatXYN_eq_ofNat 0xD#4 x y (nibbleBits n))
      (by omega)

/-! ## The bytes a store leaves -/

section
variable {m : Memory} {a : Nat} {bs : List Byte}

theorem Memory.read_writeList_stored {k : Nat} (h : k < bs.length) :
    (m.writeList a bs).read (a + k) = bs.getD k 0x00#8 := by
  rw [Memory.read_writeList, if_pos (by omega), Nat.add_sub_cancel_left]

theorem Memory.read_writeList_outside {c : Nat} (h : c < a ∨ a + bs.length ≤ c) :
    (m.writeList a bs).read c = m.read c := by
  rw [Memory.read_writeList, if_neg (by omega)]

end

/-- Settles O35: the three digits are read back at their places. -/
theorem bcdStoresThreeDigits : Obligations.BcdStoresThreeDigits := by
  intro s x hr
  refine ⟨s.mem.writeList s.I.toNat (bcdDigits (s.reg x)), exec_ldBReg_within hr, fun a => ?_⟩
  have hlen : (bcdDigits (s.reg x)).length = 3 := rfl
  split_ifs with h0 h1 h2
  · exact h0 ▸ Memory.read_writeList_stored (k := 0) (by omega)
  · exact h1 ▸ Memory.read_writeList_stored (k := 1) (by omega)
  · exact h2 ▸ Memory.read_writeList_stored (k := 2) (by omega)
  · exact Memory.read_writeList_outside (by omega)

/-- Settles O36: byte `k` of the dump is V[k]; the move of `I` comes after the store. -/
theorem dumpStoresRegistersUpToX : Obligations.DumpStoresRegistersUpToX := by
  intro s x hr
  have hlen := length_regsUpTo s x
  refine ⟨s.mem.writeList s.I.toNat (s.regsUpTo x), ?_, fun k hk => ?_, fun a ha => ?_⟩
  · rw [exec_ldIReg_within hr, State.bumpI_eq]
    rfl
  · have hk' : k.val < (s.regsUpTo x).length := hlen ▸ Nat.lt_succ_of_le hk
    exact (Memory.read_writeList_stored hk').trans (getD_regsUpTo s hk)
  · exact Memory.read_writeList_outside (by omega)

/-! ## The register load -/

/-- A register load from inside memory completes, and `I` moves where the policy makes it (R140, R146). -/
theorem exec_ldRegI_within {s : State} {x : RegIx} (h : s.I.toNat + x.val ≤ 0xFFF) :
    exec (.ldRegI x) s = .next (((s.loadRegs x).bumpI x).goTo (s.pc + 2#16)) := by
  rw [exec, execLdRegI, checkRange_within h, epilogue, State.bumpI_pc, State.loadRegs_pc]

/-- Settles O37: `loadRegs` writes the registers and the move of `I` comes after it. -/
theorem loadFillsRegistersUpToX : Obligations.LoadFillsRegistersUpToX := by
  intro s x hr
  refine ⟨(s.loadRegs x).V, ?_, State.reg_loadRegs s x⟩
  rw [exec_ldRegI_within hr, State.bumpI_eq]
  rfl

/-! ## The index register -/

theorem glyphAddress_eq_ofNat (a : Byte) :
    glyphAddress a = BitVec.ofNat 16 (5 * (a.toNat % 16)) := by
  rw [glyphAddress, val_lowNibble]

/-- Settles O33: both instructions end with the one write of `I`. -/
theorem indexLoadsSetI : Obligations.IndexLoadsSetI := by
  intro s nnn x
  rw [← addrWord_eq_ofNat, ← glyphAddress_eq_ofNat]
  exact ⟨rfl, rfl⟩

/-- `ADD_I_reg` writes `I`, and beside it registers alone (R142). -/
theorem exec_addIReg (s : State) (x : RegIx) :
    exec (.addIReg x) s = .next { s with
      V := ((s.setI (BitVec.ofNat 16 (indexSum x s))).indexFlag (indexSum x s)).V
      I := BitVec.ofNat 16 (indexSum x s)
      pc := s.pc + 2#16, status := some .completed } :=
  congrArg epilogue (State.indexFlag_eq (s.setI _) (indexSum x s))

/-- A 16-bit word holds the sum modulo 65536 (D13). -/
theorem ofNat_indexSum (s : State) (x : RegIx) :
    BitVec.ofNat 16 (indexSum x s) = BitVec.ofNat 16 ((s.I.toNat + (s.reg x).toNat) % 65536) :=
  word_eq_ofNat (BitVec.toNat_ofNat (indexSum x s) 16)

/-- Settles O34: the flag is judged by the exact sum, not by the word that `I` holds. -/
theorem addToIndexWraps : Obligations.AddToIndexWraps := by
  intro s x
  rw [← ofNat_indexSum]
  exact ⟨_, exec_addIReg s x, State.reg_indexFlag (s.setI _) (indexSum x s)⟩

end Sys2Proof.Machine
end

section
/-! The timers and the key wait (44_timers_keypad.md R150 to R153). -/

namespace Sys2Proof.Machine

/-- Settles O30: each instruction ends with the one write of its destination. -/
theorem timerInstructionsMoveValues : Obligations.TimerInstructionsMoveValues := fun _ _ =>
  ⟨completesWithRegs_of_setReg rfl rfl, rfl, rfl⟩

/-! ## The states of the key wait (R151, D17) -/

section
variable {s : State} {x : RegIx}

theorem execLdRegK_of_idle (h : s.keyWait = .idle) :
    execLdRegK x s = block { s with keyWait := .awaitDown } := by
  rw [execLdRegK, h]

theorem execLdRegK_of_awaitDown (h : s.keyWait = .awaitDown) : execLdRegK x s = block s := by
  rw [execLdRegK, h]

theorem execLdRegK_of_awaitUp {k : KeyIx} (h : s.keyWait = .awaitUp k) : execLdRegK x s = block s := by
  rw [execLdRegK, h]

theorem execLdRegK_of_done {k : KeyIx} (h : s.keyWait = .done k) :
    execLdRegK x s = epilogue { s.setReg x (BitVec.ofNat 8 k.val) with keyWait := .idle } := by
  rw [execLdRegK, h]

end

/-- Settles O31, state by state of the wait: only the delivery ends with the epilogue. -/
theorem keyWaitBlocksThenDelivers : Obligations.KeyWaitBlocksThenDelivers := by
  intro s x
  refine ⟨fun h => ?_, fun h => ?_, fun k h => ?_, fun k h => ?_⟩
  · exact execLdRegK_of_idle h
  · exact execLdRegK_of_awaitDown h
  · exact execLdRegK_of_awaitUp h
  · exact ⟨_, execLdRegK_of_done h, fun r => State.reg_setReg s x r (BitVec.ofNat 8 k.val)⟩

end Sys2Proof.Machine
end

section
/-! The display (45_display.md R160 to R164): what one draw toggles and when it collides, said once for a
pixel, a sprite byte and a sprite, and from it the statements about `CLS` and `DRW`. -/

namespace Sys2Proof.Machine

/-- Settles O12: the one write of `CLS` is the framebuffer with every pixel off. -/
theorem clsTurnsEveryPixelOff : Obligations.ClsTurnsEveryPixelOff :=
  ⟨by decide, fun _ => ⟨Framebuffer.clear, rfl, fun row col _ _ => Framebuffer.pixel_clear row col⟩⟩

/-! ## Toggling a set of pixels -/

/-- A framebuffer pixel by pixel XORed with `cover` on the grid, with the collision so far raised exactly
if a covered pixel of the grid was on before (R162, G8). -/
structure Toggles (cover : Nat → Nat → Bool) (before after : Framebuffer × Bool) : Prop where
  pixel : ∀ row col, row < 32 → col < 64 →
    after.1.pixel row col = (before.1.pixel row col ^^ cover row col)
  collision : after.2 = true ↔ before.2 = true ∨
    ∃ row col, row < 32 ∧ col < 64 ∧ before.1.pixel row col = true ∧ cover row col = true

section
variable {m m' cover : Nat → Nat → Bool} {a b c : Framebuffer × Bool}

theorem Toggles.refl (hm : ∀ row col, m row col = false) : Toggles m a a where
  pixel row col _ _ := by rw [hm, Bool.xor_false]
  collision := by simp [hm]

/-- Two sets without a common pixel, toggled one after the other, are their union toggled at once: the
first leaves the pixels of the second as they were. -/
theorem Toggles.trans (h : Toggles m a b) (h' : Toggles m' b c)
    (disjoint : ∀ row col, m row col = true → m' row col = false)
    (union : ∀ row col, cover row col = (m row col || m' row col)) : Toggles cover a c where
  pixel row col hr hc := by
    rw [h'.pixel row col hr hc, h.pixel row col hr hc, union]
    cases hm : m row col
    · simp
    · simp [disjoint row col hm]
  collision := by
    have kept : ∀ row col, row < 32 → col < 64 → m' row col = true →
        b.1.pixel row col = a.1.pixel row col := by
      intro row col hr hc hm'
      have hm : m row col = false :=
        Bool.eq_false_of_not_eq_true fun hm => by simp [disjoint row col hm] at hm'
      rw [h.pixel row col hr hc, hm, Bool.xor_false]
    rw [h'.collision, h.collision, or_assoc]
    refine or_congr_right ⟨?_, ?_⟩
    · rintro (⟨row, col, hr, hc, hp, hm⟩ | ⟨row, col, hr, hc, hp, hm⟩)
      · exact ⟨row, col, hr, hc, hp, by simp [union, hm]⟩
      · exact ⟨row, col, hr, hc, kept row col hr hc hm ▸ hp, by simp [union, hm]⟩
    · rintro ⟨row, col, hr, hc, hp, hm⟩
      rw [union, Bool.or_eq_true] at hm
      rcases hm with hm | hm
      · exact .inl ⟨row, col, hr, hc, hp, hm⟩
      · exact .inr ⟨row, col, hr, hc, (kept row col hr hc hm).trans hp, hm⟩

end

/-! ## A pixel, a sprite byte, a sprite -/

theorem plot_toggles (acc : Framebuffer × Bool) (px py : Nat) :
    Toggles (fun row col => decide (row = py ∧ col = px)) acc (plot acc px py) where
  pixel row col hr hc := by
    rw [pixel_plot]
    congr 2
    exact propext ⟨fun h => ⟨h.1, h.2.1⟩, fun h => ⟨h.1, h.2, h.1 ▸ hr, h.2 ▸ hc⟩⟩
  collision := by
    rw [collision_plot, Bool.or_eq_true]
    refine or_congr_right ⟨fun h => ?_, ?_⟩
    · have onGrid : py < 32 ∧ px < 64 := by
        by_contra hg
        simp [Framebuffer.pixel, hg] at h
      exact ⟨py, px, onGrid.1, onGrid.2, h, by simp⟩
    · rintro ⟨row, col, -, -, hp, hm⟩
      obtain ⟨rfl, rfl⟩ := of_decide_eq_true hm
      exact hp

/-- The pixels of row `py` under the set bits of a sprite byte, taken in the columns `cs` (R162). -/
def byteCovers (byte : Byte) (x0 py : Nat) (cs : List Nat) (row col : Nat) : Bool :=
  decide (row = py ∧ x0 ≤ col ∧ col - x0 ∈ cs) && byte.getLsbD (7 - (col - x0))

theorem byteCovers_cons (byte : Byte) (x0 py k : Nat) (cs : List Nat) (row col : Nat) :
    byteCovers byte x0 py (k :: cs) row col =
      (decide (row = py ∧ col = x0 + k) && byte.getLsbD (7 - k) || byteCovers byte x0 py cs row col) := by
  by_cases hk : col = x0 + k
  · subst hk
    by_cases hr : row = py <;> cases hb : byte.getLsbD (7 - k) <;> simp [byteCovers, hr, hb]
  · have : x0 ≤ col → col - x0 ≠ k := by omega
    have : (row = py ∧ x0 ≤ col ∧ col - x0 ∈ k :: cs) ↔ (row = py ∧ x0 ≤ col ∧ col - x0 ∈ cs) := by
      rw [List.mem_cons]; tauto
    simp only [byteCovers, this, hk, and_false, decide_false, Bool.false_and, Bool.false_or]

theorem drawBits_toggles (byte : Byte) (x0 py : Nat) {cs : List Nat} (distinct : cs.Nodup)
    (acc : Framebuffer × Bool) :
    Toggles (byteCovers byte x0 py cs) acc (drawBits byte x0 py cs acc) := by
  induction cs generalizing acc with
  | nil => exact .refl (by simp [byteCovers])
  | cons k cs ih =>
    obtain ⟨fresh, distinct⟩ := List.nodup_cons.mp distinct
    have first : Toggles (fun row col => decide (row = py ∧ col = x0 + k) && byte.getLsbD (7 - k)) acc
        (if byte.getLsbD (7 - k) then plot acc (x0 + k) py else acc) := by
      cases byte.getLsbD (7 - k)
      · exact .refl (by simp)
      · simpa using plot_toggles acc (x0 + k) py
    refine first.trans (ih distinct _) (fun row col h => ?_) (byteCovers_cons byte x0 py k cs)
    obtain ⟨-, rfl⟩ := of_decide_eq_true (Bool.and_elim_left h)
    simp [byteCovers, fresh]

/-- The pixels under the set bits of a sprite with its origin at row `y0` and column `x0` (R162). -/
def spriteBit (x0 y0 : Nat) (sprite : List Byte) (row col : Nat) : Bool :=
  decide (y0 ≤ row ∧ row < y0 + sprite.length ∧ x0 ≤ col ∧ col < x0 + 8) &&
    (sprite.getD (row - y0) 0x00#8).getLsbD (7 - (col - x0))

theorem spriteBit_cons (x0 y0 : Nat) (byte : Byte) (rows : List Byte) (row col : Nat) :
    spriteBit x0 y0 (byte :: rows) row col =
      (byteCovers byte x0 y0 [0, 1, 2, 3, 4, 5, 6, 7] row col || spriteBit x0 (y0 + 1) rows row col) := by
  rcases Nat.lt_trichotomy row y0 with hr | rfl | hr
  · have above : ¬ y0 ≤ row ∧ ¬ y0 + 1 ≤ row ∧ row ≠ y0 := by omega
    simp [spriteBit, byteCovers, above]
  · have columns : col - x0 ∈ [0, 1, 2, 3, 4, 5, 6, 7] ↔ col - x0 < 8 := by simp; omega
    have width : x0 ≤ col ∧ col - x0 < 8 ↔ x0 ≤ col ∧ col < x0 + 8 := by omega
    simp [-List.mem_cons, spriteBit, byteCovers, columns, width]
  · have index : row - y0 = row - (y0 + 1) + 1 := by omega
    have length : row < y0 + (rows.length + 1) ↔ row < y0 + 1 + rows.length := by omega
    have notFirst : row ≠ y0 := by omega
    have fromNext : y0 ≤ row ↔ y0 + 1 ≤ row := by omega
    simp only [spriteBit, byteCovers, List.length_cons, index, List.getD_cons_succ, length, fromNext,
      notFirst, false_and, decide_false, Bool.false_and, Bool.false_or]

theorem drawRows_toggles (x0 y0 : Nat) (sprite : List Byte) (acc : Framebuffer × Bool) :
    Toggles (spriteBit x0 y0 sprite) acc (drawRows x0 y0 sprite acc) := by
  induction sprite generalizing y0 acc with
  | nil => exact .refl fun row col => by simp [spriteBit]
  | cons byte rows ih =>
    refine (drawBits_toggles byte x0 y0 (by decide) acc).trans (ih (y0 + 1) _) (fun row col h => ?_)
      (spriteBit_cons x0 y0 byte rows)
    obtain ⟨rfl, -⟩ := of_decide_eq_true (Bool.and_elim_left h)
    simp [spriteBit]

/-- What a draw does to the framebuffer and when it collides (R162, G8). -/
theorem draw_toggles (fb : Framebuffer) (x0 y0 : Nat) (sprite : List Byte) :
    Toggles (spriteBit x0 y0 sprite) (fb, false) (draw fb x0 y0 sprite) :=
  drawRows_toggles x0 y0 sprite (fb, false)

/-- Settles O14: a pixel toggled twice is as before, and a covered pixel is on after the first draw exactly
if it was off. -/
theorem drawingTwiceRestores : Obligations.DrawingTwiceRestores := by
  intro fb x0 y0 sprite
  have first := draw_toggles fb x0 y0 sprite
  have second := draw_toggles (draw fb x0 y0 sprite).1 x0 y0 sprite
  refine ⟨Framebuffer.ext_pixel fun row col hr hc => ?_, second.collision.trans ?_⟩
  · rw [second.pixel row col hr hc, first.pixel row col hr hc, Bool.xor_assoc, Bool.xor_self,
      Bool.xor_false]
  · simp only [Bool.false_eq_true, false_or]
    refine exists₂_congr fun row col => and_congr_right fun hr => and_congr_right fun hc => ?_
    rw [first.pixel row col hr hc]
    cases fb.pixel row col <;> cases spriteBit x0 y0 sprite row col <;> decide

/-! ## `DRW` -/

/-- The sprite `DRW` reads covers what the bytes at `I` cover (R161). -/
theorem spriteBit_spriteAt (s : State) (x0 y0 : Nat) (n : RowCount) :
    spriteBit x0 y0 (spriteAt n s) = s.spriteCovers x0 y0 n.val := by
  funext row col
  simp only [spriteBit, State.spriteCovers, spriteAt, Memory.length_readList]
  by_cases h : y0 ≤ row ∧ row < y0 + n.val ∧ x0 ≤ col ∧ col < x0 + 8
  · rw [Memory.getD_readList _ _ _ _ (by omega)]
  · simp only [h, decide_false, Bool.false_and]

theorem exec_drw_within {s : State} {x y : RegIx} {n : RowCount}
    (h : n.val = 0 ∨ s.I.toNat + n.val - 1 ≤ 0xFFF) : exec (.drw x y n) s = drawSprite x y n s := by
  rcases Nat.eq_zero_or_pos n.val with hn | hn
  · exact if_pos hn
  · rw [exec_drw_of_rows hn, checkRange_within (by omega)]

/-- The registers `DRW` leaves: of its two writes of VF the collision is the last (R161, D8). -/
theorem reg_afterDraw (s : State) (fb : Framebuffer) (hit : Bool) (r : RegIx) :
    ({ s.setFlag false with fb := fb }.setFlag hit).reg r =
      if r = 15 then (if hit then 0x01#8 else 0x00#8) else s.reg r := by
  rw [State.reg_setFlag]
  split
  · rfl
  · next hr => exact (State.reg_setFlag s false r).trans (if_neg hr)

/-- Settles O13: `DRW` draws the bytes at `I` and then writes the collision to VF. -/
theorem drwTogglesCoveredPixels : Obligations.DrwTogglesCoveredPixels := by
  intro s x y n hr
  have drawn := draw_toggles s.fb (originCol x s) (originRow y s) (spriteAt n s)
  rw [spriteBit_spriteAt] at drawn
  obtain ⟨pixel, collision⟩ := drawn
  refine ⟨_, _, exec_drw_within hr, pixel, fun hit => ?_, fun miss => ?_, fun r hr => ?_⟩
  · refine (reg_afterDraw s _ _ 15).trans ?_
    rw [if_pos rfl, if_pos (collision.mpr (.inr hit))]
  · refine (reg_afterDraw s _ _ 15).trans ?_
    rw [if_pos rfl, if_neg fun hit => (collision.mp hit).elim Bool.noConfusion miss]
  · exact (reg_afterDraw s _ _ r).trans (if_neg hr)

end Sys2Proof.Machine
end

section
/-! The Clock and the Input source (60_exceptions.md R180 to R187): a tick is as many pulses as it holds
whole periods, and a change of a key's level is what moves the key-wait latch. -/

namespace Sys2Proof.Machine

/-- The step of an action that stands at the head of the schedule (log 3). -/
theorem step_of_schedule {s : State} {e : Event} {rest : List Event} (h : s.schedule = e :: rest) :
    step s = perform e { s with schedule := rest } := by
  simp [step, State.nextEvent, State.popEvent, h]

/-! ## The Clock -/

theorem timerDown_eq_ofNat (t : Byte) (k : Nat) : timerDown t k = BitVec.ofNat 8 (t.toNat - k) := by
  rw [← toNat_timerDown, BitVec.ofNat_toNat, BitVec.setWidth_eq]

theorem wholePeriods_mul (n : Nat) : wholePeriods (n * 16667) = n :=
  Nat.mul_div_cancel n (by decide)

/-- Ticks of whole periods add up: none of their time is dropped (R181). -/
theorem State.tick_tick_of_periods (s : State) (m n : Nat) :
    (s.tick (m * 16667)).tick (n * 16667) = s.tick ((m + n) * 16667) := by
  simp only [State.tick, wholePeriods_mul, timerDown_timerDown]

theorem State.iterate_pulse (s : State) (n : Nat) :
    (fun u : State => u.tick 16667)^[n] s = s.tick (n * 16667) := by
  induction n with
  | zero => simp [State.tick, wholePeriods, timerDown_eq_ofNat]
  | succ n ih => rw [Function.iterate_succ_apply', ih, ← State.tick_tick_of_periods, Nat.one_mul]

/-- Settles O41: a tick counts whole periods only, and that many pulses add up to the same count. -/
theorem tickLowersBothTimers : Obligations.TickLowersBothTimers := by
  intro s e
  constructor
  · intro rest h
    rw [step_of_schedule h, ← timerDown_eq_ofNat, ← timerDown_eq_ofNat]
    rfl
  · rw [State.iterate_pulse, State.tick, State.tick, wholePeriods_mul]
    rfl

/-! ## The Input source -/

section
variable {s : State} {k : KeyIx} {p : Bool}

theorem State.keyWait_setKey_of_level (h : p = s.keypad[k]) : (s.setKey k p).keyWait = s.keyWait :=
  if_neg (by simp [h])

theorem State.keyWait_setKey_of_transition (h : p ≠ s.keypad[k]) :
    (s.setKey k p).keyWait = keyWaitAfter s.config.keyWaitOnRelease k p s.keyWait :=
  if_pos (bne_iff_ne.mpr h)

/-- A wait that a transition would leave is left, be it a transition or not. -/
theorem State.keyWait_setKey_of_kept {w : KeyWait} (hw : s.keyWait = w)
    (h : keyWaitAfter s.config.keyWaitOnRelease k p w = w) : (s.setKey k p).keyWait = w := by
  by_cases hp : p = s.keypad[k]
  · rw [State.keyWait_setKey_of_level hp, hw]
  · rw [State.keyWait_setKey_of_transition hp, hw, h]

end

/-- Settles O42, state by state of the wait. -/
theorem setKeySetsLevelAndMovesLatch : Obligations.SetKeySetsLevelAndMovesLatch := by
  intro s k p rest h
  refine ⟨(s.setKey k p).keypad, (s.setKey k p).keyWait, step_of_schedule h, fun j => ?level,
    State.keyWait_setKey_of_level, fun hw => State.keyWait_setKey_of_kept hw rfl,
    fun hw hp => ?waits, fun hw hp hk => ?opens, fun j hw hp hk hj => ?closes,
    fun j hw hj => ?otherKey, fun j hw => State.keyWait_setKey_of_kept hw rfl⟩
  case level => simp [Vector.getElem_set, Fin.ext_iff, eq_comm]
  case waits => exact State.keyWait_setKey_of_kept hw (by simp [keyWaitAfter, hp])
  case opens =>
    rw [State.keyWait_setKey_of_transition (by simp [hp, hk]), hw, hp]
    rfl
  case closes =>
    rw [State.keyWait_setKey_of_transition (by simp [hp, hk]), hw]
    simp [keyWaitAfter, hp, hj]
  case otherKey =>
    refine State.keyWait_setKey_of_kept hw ?_
    rcases hj with hp | hj
    · simp [keyWaitAfter, hp]
    · simp [keyWaitAfter, hj]

end Sys2Proof.Machine
end

section
/-! The sound output (60_exceptions.md R183, 44_timers_keypad.md R153). -/

namespace Sys2Proof.Machine

/-- The row of R36 that marks the sound timer. -/
theorem ldST_of_mayWrite_soundTimer {cfg : Config} {i : Instr}
    (h : mayWrite cfg i .soundTimer = true) : ∃ x, i = .ldST x := by
  cases i with
  | ldST x => exact ⟨x, rfl⟩
  | _ => simp [mayWrite] at h

/-- A driver's step that moves the sound timer runs its load (R36, R91). -/
theorem ldST_of_driverStep_ST_ne {s t : State} (h : driverStep s = .next t) (hne : t.ST ≠ s.ST) :
    ∃ x, s.fetches (.ldST x) := by
  rcases driverStep_cases h with ⟨f, -, rfl⟩ | ⟨-, f, -, rfl⟩ | ⟨-, op, -, -, rfl⟩ |
    ⟨hf, op, i, ho, hd, h⟩
  · exact absurd rfl hne
  · exact absurd rfl hne
  · exact absurd rfl hne
  · obtain ⟨frame, -, -⟩ := instructionsWriteOnlyTabledState i s t h
    have hw : mayWrite s.config i .soundTimer = true := by
      by_contra hw
      exact hne (frame .soundTimer (by simpa using hw))
    obtain ⟨x, rfl⟩ := ldST_of_mayWrite_soundTimer hw
    exact ⟨x, State.fetches_of_fetch hf ho hd⟩

/-- Settles O51: the output is a function of the sound timer, which the Input source leaves. -/
theorem soundActiveFollowsST : Obligations.SoundActiveFollowsST := by
  refine ⟨fun s => decide_eq_true_iff, fun s t h hne => ?_⟩
  rcases step_cases h with ⟨hn, h⟩ | ⟨e, hn, -⟩ | ⟨k, p, -, rfl⟩ | ⟨image, hn, -, -⟩
  · have hST : t.ST ≠ s.ST := fun hST => hne (by rw [State.soundActive, hST, State.soundActive])
    exact .inr (.inr ⟨hn, ldST_of_driverStep_ST_ne (s := s.popEvent) h hST⟩)
  · exact .inl ⟨e, hn⟩
  · exact absurd rfl hne
  · exact .inr (.inl ⟨image, hn⟩)

end Sys2Proof.Machine
end

section
/-! Fault entry and the fault latch (60_exceptions.md R170 to R177): how a step comes to leave a fault
where none was, that a latched one stays, and which words raise `DecodeError`. -/

namespace Sys2Proof.Machine

/-! ## Fault entry -/

section
variable {s t : State} {f : Fault}

/-- The faults of a fetch hold the `pc`, and no word, since none was fetched (R56, R170). -/
theorem record_of_fetch_error (h : s.fetch = .error f) : f.pc? = some s.pc ∧ f.op? = none := by
  rcases State.fetch_eq_error.mp h with ⟨-, rfl⟩ | ⟨-, -, rfl⟩
  · exact ⟨rfl, rfl⟩
  · exact ⟨rfl, rfl⟩

/-- An instruction that leaves a fault where none was has latched it, with its own `pc` and word. -/
theorem raised_of_exec {i : Instr} (h : exec i s = .next t) (hn : s.fault = none)
    (ht : t.fault = some f) : t = s.latch f ∧ f.pc? = some s.pc ∧ f.op? = some (encode i) := by
  cases exec_ends h with
  | raises hpc hop =>
    obtain rfl := Option.some.inj ht
    exact ⟨rfl, hpc, hop⟩
  | blocks => simp [hn] at ht
  | completes hu => simp [hu.fault, hn] at ht

/-- A driver's step that leaves a fault where none was has latched it, with the `pc` and, if any, the word
that it fetched. -/
theorem raised_of_driverStep (h : driverStep s = .next t) (hn : s.fault = none)
    (ht : t.fault = some f) :
    t = s.latch f ∧ f.pc? = some s.pc ∧ ∀ op, f.op? = some op → op = s.fetchedWord := by
  rcases driverStep_cases h with ⟨g, hg, -⟩ | ⟨-, g, ho, rfl⟩ | ⟨-, w, ho, -, rfl⟩ |
    ⟨-, w, i, ho, hd, h⟩
  · simp [hn] at hg
  · obtain rfl := Option.some.inj ht
    obtain ⟨hpc, hop⟩ := record_of_fetch_error ho
    exact ⟨rfl, hpc, by simp [hop]⟩
  · obtain rfl := Option.some.inj ht
    obtain ⟨-, -, rfl⟩ := State.fetch_eq_ok.mp ho
    exact ⟨rfl, rfl, fun op hop => (Option.some.inj hop).symm⟩
  · obtain ⟨hlatch, hpc, hop⟩ := raised_of_exec h hn ht
    obtain ⟨hw, -⟩ := encodeOfDecodeIsTheWord w i hd
    obtain ⟨-, -, rfl⟩ := State.fetch_eq_ok.mp ho
    exact ⟨hlatch, hpc, fun op h => (Option.some.inj (hop.symm.trans h)).symm.trans hw⟩

/-- A step that leaves a fault where none was is a driver's step: the other agents leave the latch or
clear it. -/
theorem driverStep_of_raised (h : step s = .next t) (hn : s.fault = none) (ht : t.fault = some f) :
    s.driverNext ∧ driverStep s.popEvent = .next t := by
  rcases step_cases h with hd | ⟨e, -, rfl⟩ | ⟨k, p, -, rfl⟩ | ⟨image, -, -, rfl⟩
  · exact hd
  · simp [hn] at ht
  · simp [hn] at ht
  · simp [State.loaded, State.reset] at ht

end

/-- Settles O53: of the ends of the driver's step, those that leave a new fault only latch it. -/
theorem faultEntryIsPrecise : Obligations.FaultEntryIsPrecise := by
  intro s t h hn f ht
  obtain ⟨hnext, hd⟩ := driverStep_of_raised h hn ht
  obtain ⟨hlatch, -, -⟩ := raised_of_driverStep hd hn ht
  exact ⟨hnext, hlatch⟩

/-- Settles O54: an instruction records its encoding, and that is the word it was decoded from. -/
theorem faultRecordsPcAndFetchedWord : Obligations.FaultRecordsPcAndFetchedWord := by
  intro s t h hn f ht
  obtain ⟨-, hd⟩ := driverStep_of_raised h hn ht
  obtain ⟨-, hrecord⟩ := raised_of_driverStep hd hn ht
  exact hrecord

/-! ## The latch -/

/-- Settles O55, agent by agent: the driver reports the latched fault, the Clock and the Input source leave
it. -/
theorem latchedFaultStaysUntilReset : Obligations.LatchedFaultStaysUntilReset := by
  intro s t f hf h
  rcases step_cases h with ⟨-, h⟩ | ⟨e, he, rfl⟩ | ⟨k, p, he, rfl⟩ | ⟨image, he, -, rfl⟩
  · rw [driverStep_of_fault (s := s.popEvent) hf] at h
    obtain rfl := reportLatched_eq_next.mp h
    exact .inr ⟨hf, fun _ => rfl⟩
  · exact .inr ⟨hf, fun hn => nomatch he.symm.trans hn⟩
  · exact .inr ⟨hf, fun hn => nomatch he.symm.trans hn⟩
  · exact .inl ⟨⟨image, he⟩, rfl⟩

/-! ## `DecodeError` -/

/-- The next state that `r` answers, if any, has no `DecodeError` latched. -/
def LatchesNoDecodeError (r : Result) : Prop :=
  ∀ t pc op, r = .next t → t.fault ≠ some (.decodeError pc op)

section
variable {s : State}

theorem LatchesNoDecodeError.of_fault {u : State} (h : u.fault = none) :
    LatchesNoDecodeError (.next u) := by
  rintro t pc op ⟨⟩
  simp [h]

theorem LatchesNoDecodeError.raise {f : Fault} (h : ∀ pc op, f ≠ .decodeError pc op) :
    LatchesNoDecodeError (raise f s) := by
  rintro t pc op ⟨⟩ ht
  exact h pc op (Option.some.inj ht)

theorem LatchesNoDecodeError.checkTarget {op a : Word} {k : Result} (hk : LatchesNoDecodeError k) :
    LatchesNoDecodeError (checkTarget op a s k) := by
  unfold Machine.checkTarget
  split
  · exact .raise nofun
  · exact hk

theorem LatchesNoDecodeError.checkRange {op : Word} {n : Nat} {k : Result}
    (hk : LatchesNoDecodeError k) : LatchesNoDecodeError (checkRange op n s k) := by
  unfold Machine.checkRange
  split
  · exact .raise nofun
  · exact hk

variable (hn : s.fault = none)
include hn

theorem LatchesNoDecodeError.execRet : LatchesNoDecodeError (execRet s) := by
  unfold Machine.execRet
  split
  · next a u hp =>
    obtain ⟨-, -, rfl⟩ := State.pop_eq_some hp
    exact .of_fault hn
  · exact .raise nofun

theorem LatchesNoDecodeError.execCall (nnn : Addr) : LatchesNoDecodeError (execCall nnn s) := by
  refine .checkTarget ?_
  split
  · next u hp =>
    obtain ⟨-, rfl⟩ := State.push_eq_some hp
    exact .of_fault hn
  · exact .raise nofun

theorem LatchesNoDecodeError.execDrw (x y : RegIx) (n : RowCount) :
    LatchesNoDecodeError (execDrw x y n s) := by
  unfold Machine.execDrw
  split
  · exact .of_fault hn
  · exact .checkRange (.of_fault hn)

theorem LatchesNoDecodeError.execLdRegK (x : RegIx) : LatchesNoDecodeError (execLdRegK x s) := by
  unfold Machine.execLdRegK
  cases s.keyWait with
  | idle | awaitDown | awaitUp | done => exact .of_fault hn

/-- Of the instructions only `SYS` raises `DecodeError` (R171). -/
theorem latchesNoDecodeError_exec {i : Instr} (hi : ∀ nnn, i ≠ .sys nnn) :
    LatchesNoDecodeError (exec i s) := by
  cases i with
  | sys nnn => exact absurd rfl (hi nnn)
  | ret => exact .execRet hn
  | call nnn => exact .execCall hn nnn
  | jp | jpReg0 => exact .checkTarget (.of_fault hn)
  | drw x y n => exact .execDrw hn x y n
  | ldRegK x => exact .execLdRegK hn x
  | ldBReg | ldIReg | ldRegI => exact .checkRange (.of_fault (by simpa using hn))
  | _ => exact .of_fault (by simpa using hn)

/-- An instruction that leaves a `DecodeError` is a `SYS` that is no NOP (R110). -/
theorem sys_of_exec_decodeError {i : Instr} {t : State} {pc op : Word} (h : exec i s = .next t)
    (ht : t.fault = some (.decodeError pc op)) :
    (∃ nnn, i = .sys nnn) ∧ s.config.sysIsNop = false := by
  by_cases hi : ∃ nnn, i = .sys nnn
  · obtain ⟨nnn, rfl⟩ := hi
    refine ⟨⟨nnn, rfl⟩, Bool.eq_false_iff.mpr fun hnop => ?_⟩
    obtain rfl := Host.Outcome.next.inj ((exec_sys_of_nop hnop).symm.trans h)
    simp [hn] at ht
  · exact absurd ht (latchesNoDecodeError_exec hn (not_exists.mp hi) t pc op h)

/-- A driver's step that leaves a `DecodeError` met an Unknown word or a `SYS` that is no NOP. -/
theorem word_of_driverStep_decodeError {t : State} {pc op : Word} (h : driverStep s = .next t)
    (ht : t.fault = some (.decodeError pc op)) :
    decode s.fetchedWord = none ∨
      ((∃ nnn, decode s.fetchedWord = some (.sys nnn)) ∧ s.config.sysIsNop = false) := by
  rcases driverStep_cases h with ⟨f, hf, -⟩ | ⟨-, f, ho, rfl⟩ | ⟨-, w, ho, hd, rfl⟩ |
    ⟨-, w, i, ho, hd, h⟩
  · simp [hn] at hf
  · obtain rfl := Option.some.inj ht
    obtain ⟨-, hop⟩ := record_of_fetch_error ho
    simp [Fault.op?] at hop
  · obtain ⟨-, -, rfl⟩ := State.fetch_eq_ok.mp ho
    exact .inl hd
  · obtain ⟨-, -, rfl⟩ := State.fetch_eq_ok.mp ho
    obtain ⟨⟨nnn, rfl⟩, hnop⟩ := sys_of_exec_decodeError hn h ht
    exact .inr ⟨⟨nnn, hd⟩, hnop⟩

end

/-- Settles O56: the two sources of the record, and that there is no third. -/
theorem decodeErrorForUnknownAndSys : Obligations.DecodeErrorForUnknownAndSys := by
  intro s hnext hn
  constructor
  · rintro hf (hd | ⟨⟨nnn, hd⟩, hnop⟩)
    · rw [step_of_driverNext hnext]
      exact driverStep_of_unknown (s := s.popEvent) hn hf hd
    · obtain ⟨hw, -⟩ := encodeOfDecodeIsTheWord _ _ hd
      rw [step_of_fetches hnext ⟨hn, hf, hd⟩, exec_sys_of_not_nop (s := s.popEvent) hnop, hw]
      rfl
  · intro t pc op h ht
    rw [step_of_driverNext hnext] at h
    exact word_of_driverStep_decodeError (s := s.popEvent) hn h ht

end Sys2Proof.Machine
end

section
/-! Reset and program load (70_reset_and_hazards.md R200 to R202), and what no agent does: change the
configuration (R202), or move a timer otherwise than by its load, a `Tick` or a `Reset` (R208). -/

namespace Sys2Proof.Machine

/-! ## Reset -/

/-- Settles O44: the bound of R201 is the one the loader checks. -/
theorem oversizedImageIsLoadError : Obligations.OversizedImageIsLoadError := fun _ _ _ hs hl =>
  (step_of_schedule hs).trans (load_of_too_long hl)

/-- Settles O43: the font ends before the image begins, so neither hides the other. -/
theorem resetCreatesTheStateAfresh : Obligations.ResetCreatesTheStateAfresh := by
  intro s image rest hs hl
  refine ⟨(s.loaded image).mem, (step_of_schedule hs).trans (load_eq_next.mpr ⟨hl, rfl⟩), fun a => ?_⟩
  rw [State.read_loaded]
  by_cases hfont : a < 0x050
  · rw [if_pos hfont, if_neg (by omega)]
    rfl
  · rw [if_neg hfont, resetByte_past_font (Nat.le_of_not_lt hfont)]

/-! ## The configuration -/

/-- Fault entry leaves the configuration, and so does every instruction (R36, R176). -/
theorem config_of_driverStep {s t : State} (h : driverStep s = .next t) : t.config = s.config := by
  rcases driverStep_cases h with ⟨f, -, rfl⟩ | ⟨-, f, -, rfl⟩ | ⟨-, op, -, -, rfl⟩ |
    ⟨-, op, i, -, -, h⟩
  · rfl
  · rfl
  · rfl
  · obtain ⟨-, hconfig, -⟩ := instructionsWriteOnlyTabledState i s t h
    exact hconfig

/-- Settles O52, agent by agent: a load carries the configuration over from the state before it. -/
theorem configIsConstant : Obligations.ConfigIsConstant := by
  intro s t h
  rcases step_cases h with ⟨-, h⟩ | ⟨e, -, rfl⟩ | ⟨k, p, -, rfl⟩ | ⟨image, -, -, rfl⟩
  · exact config_of_driverStep (s := s.popEvent) h
  · rfl
  · rfl
  · rfl

/-! ## The timers -/

/-- A driver's step that moves a component of R36 runs an instruction whose row marks it: the other ends
of the cycle touch no component (R91, R176). -/
theorem mayWrite_of_driverStep_not_same {s t : State} {c : Component} (h : driverStep s = .next t)
    (hc : ¬ c.Same s t) : ∃ i, s.fetches i ∧ mayWrite s.config i c = true := by
  rcases driverStep_cases h with ⟨f, hf, rfl⟩ | ⟨-, f, -, rfl⟩ | ⟨-, op, -, -, rfl⟩ |
    ⟨hf, op, i, ho, hd, h⟩
  · exact absurd (by cases c <;> simp [Component.Same, State.reg]) hc
  · exact absurd (.latch s _) hc
  · exact absurd (.latch s _) hc
  · obtain ⟨frame, -, -⟩ := instructionsWriteOnlyTabledState i s t h
    refine ⟨i, State.fetches_of_fetch hf ho hd, ?_⟩
    by_contra hw
    exact hc (frame c (by simpa using hw))

/-- The row of R36 that marks the delay timer. -/
theorem ldDT_of_mayWrite_delayTimer {cfg : Config} {i : Instr}
    (h : mayWrite cfg i .delayTimer = true) : ∃ x, i = .ldDT x := by
  cases i with
  | ldDT x => exact ⟨x, rfl⟩
  | _ => simp [mayWrite] at h

/-- A driver's step that moves the delay timer runs its load (R36, R91). -/
theorem ldDT_of_driverStep_DT_ne {s t : State} (h : driverStep s = .next t) (hne : t.DT ≠ s.DT) :
    ∃ x, s.fetches (.ldDT x) := by
  obtain ⟨i, hi, hw⟩ := mayWrite_of_driverStep_not_same (c := .delayTimer) h hne
  obtain ⟨x, rfl⟩ := ldDT_of_mayWrite_delayTimer hw
  exact ⟨x, hi⟩

/-- What a step can do to the timers: the driver moves each by its load alone, a tick lowers them, the
Input source leaves them, and a reset clears them. -/
theorem timers_of_step {s t : State} (h : step s = .next t) :
    (s.driverNext ∧ (t.DT ≠ s.DT → ∃ x, s.fetches (.ldDT x)) ∧
      (t.ST ≠ s.ST → ∃ x, s.fetches (.ldST x))) ∨
    ((∃ e, s.nextEvent = .tick e) ∧ t.DT.toNat ≤ s.DT.toNat ∧ t.ST.toNat ≤ s.ST.toNat) ∨
    (t.DT = s.DT ∧ t.ST = s.ST) ∨
    ((∃ image, s.nextEvent = .reset image) ∧ t.DT = 0x00#8 ∧ t.ST = 0x00#8) := by
  rcases step_cases h with ⟨hn, h⟩ | ⟨e, he, rfl⟩ | ⟨k, p, -, rfl⟩ | ⟨image, he, -, rfl⟩
  · exact .inl ⟨hn, ldDT_of_driverStep_DT_ne (s := s.popEvent) h,
      ldST_of_driverStep_ST_ne (s := s.popEvent) h⟩
  · exact .inr (.inl ⟨⟨e, he⟩, by simp, by simp⟩)
  · exact .inr (.inr (.inl ⟨rfl, rfl⟩))
  · exact .inr (.inr (.inr ⟨⟨image, he⟩, rfl, rfl⟩))

/-- Settles O50: of what a step can do to the timers, only a load raises one. -/
theorem timersMoveOnlyByLoadAndTick : Obligations.TimersMoveOnlyByLoadAndTick := by
  intro s t h
  have ne_of_lt {a b : Byte} (hlt : a.toNat < b.toNat) : a ≠ b := mt (congrArg BitVec.toNat) hlt.ne
  rcases timers_of_step h with ⟨hn, hDT, hST⟩ | ⟨hevent, hDT, hST⟩ | ⟨hDT, hST⟩ | ⟨hevent, hDT, hST⟩
  · exact ⟨fun hlt => ⟨hn, hDT (ne_of_lt hlt).symm⟩, fun hlt => ⟨hn, hST (ne_of_lt hlt).symm⟩,
      fun hlt => .inr (.inr ⟨hn, hDT (ne_of_lt hlt)⟩), fun hlt => .inr (.inr ⟨hn, hST (ne_of_lt hlt)⟩)⟩
  · exact ⟨fun hlt => absurd hlt hDT.not_gt, fun hlt => absurd hlt hST.not_gt,
      fun _ => .inl hevent, fun _ => .inl hevent⟩
  · exact ⟨fun hlt => absurd hDT.symm (ne_of_lt hlt), fun hlt => absurd hST.symm (ne_of_lt hlt),
      fun hlt => absurd hDT (ne_of_lt hlt), fun hlt => absurd hST (ne_of_lt hlt)⟩
  · exact ⟨fun hlt => by simp [hDT] at hlt, fun hlt => by simp [hST] at hlt,
      fun _ => .inr (.inl hevent), fun _ => .inr (.inl hevent)⟩

end Sys2Proof.Machine
end
